-- ==== Sys2Proof/Word.lean ====
section
/-! DEFINITION. The machine's bit-vector types (00_scope.md rules R7, R8, R10): every value is unsigned. -/

namespace Sys2Proof

/-- A byte: V registers, timers, memory cells, framebuffer cells (rule R5). -/
abbrev Byte := BitVec 8

/-- A 16-bit word: an instruction word, I, pc, a stack slot (rule R5). -/
abbrev Word := BitVec 16

/-- A 4-bit field of the instruction word (rule R11 "Nibble"). -/
abbrev Nibble := BitVec 4

/-- The 12-bit address operand nnn (rule R71). -/
abbrev Addr12 := BitVec 12

/-- The name of a general register, V0 to VF: the 4-bit field that selects it (rules R21, R71). -/
abbrev Reg := BitVec 4

/-- The flag register VF (rule R22). -/
abbrev regF : Reg := 0xF#4

end Sys2Proof
end

