-- ==== Sys2Proof/Syntax.lean ====
section
/-! DEFINITION. The instructions of the CORE: one constructor per row of spec/opcode_table.json (rule R73), in the
table's order. Every operand has the exact width of its field (rule R71), so every term is an instruction the hardware
can hold. Encoded fields that an instruction does not read (y of the two shifts) are kept, so that no bit of a word is
lost by decoding. -/

namespace Sys2Proof

inductive Instr where
  /-- 00E0 clear-screen (R194) -/
  | clearScreen
  /-- 00EE return (R121) -/
  | ret
  /-- 1nnn jump (R122) -/
  | jump (nnn : Addr12)
  /-- 2nnn call (R123) -/
  | call (nnn : Addr12)
  /-- 3xkk skip-eq-imm (R124) -/
  | skipEqImm (x : Reg) (kk : Byte)
  /-- 4xkk skip-neq-imm (R125) -/
  | skipNeqImm (x : Reg) (kk : Byte)
  /-- 5xy0 skip-eq-reg (R126) -/
  | skipEqReg (x y : Reg)
  /-- 6xkk load-imm (R141) -/
  | loadImm (x : Reg) (kk : Byte)
  /-- 7xkk add-imm (R142) -/
  | addImm (x : Reg) (kk : Byte)
  /-- 8xy0 move (R143) -/
  | move (x y : Reg)
  /-- 8xy1 or (R144) -/
  | orReg (x y : Reg)
  /-- 8xy2 and (R145) -/
  | andReg (x y : Reg)
  /-- 8xy3 xor (R146) -/
  | xorReg (x y : Reg)
  /-- 8xy4 add-reg (R147) -/
  | addReg (x y : Reg)
  /-- 8xy5 sub, x − y (R148) -/
  | sub (x y : Reg)
  /-- 8xy6 shift-right; y is encoded and not read (R149) -/
  | shiftRight (x y : Reg)
  /-- 8xy7 subn, y − x (R150) -/
  | subn (x y : Reg)
  /-- 8xyE shift-left; y is encoded and not read (R151) -/
  | shiftLeft (x y : Reg)
  /-- 9xy0 skip-neq-reg (R127) -/
  | skipNeqReg (x y : Reg)
  /-- Annn set-index (R170) -/
  | setIndex (nnn : Addr12)
  /-- Bnnn jump-offset (R128) -/
  | jumpOffset (nnn : Addr12)
  /-- Cxkk random-and (R152) -/
  | randomAnd (x : Reg) (kk : Byte)
  /-- Dxyn draw-sprite (R195) -/
  | drawSprite (x y : Reg) (n : Nibble)
  /-- Ex9E skip-if-key-down (R211) -/
  | skipIfKeyDown (x : Reg)
  /-- ExA1 skip-if-key-up (R212) -/
  | skipIfKeyUp (x : Reg)
  /-- Fx07 get-delay-timer (R213) -/
  | getDelayTimer (x : Reg)
  /-- Fx0A wait-for-key (R214) -/
  | waitForKey (x : Reg)
  /-- Fx15 set-delay-timer (R215) -/
  | setDelayTimer (x : Reg)
  /-- Fx18 set-sound-timer (R216) -/
  | setSoundTimer (x : Reg)
  /-- Fx1E add-to-index (R171) -/
  | addToIndex (x : Reg)
  /-- Fx29 index-to-font-glyph (R172) -/
  | indexToFontGlyph (x : Reg)
  /-- Fx33 store-bcd (R173) -/
  | storeBcd (x : Reg)
  /-- Fx55 store-registers (R174) -/
  | storeRegisters (x : Reg)
  /-- Fx65 load-registers (R175) -/
  | loadRegisters (x : Reg)
  deriving DecidableEq, Repr

end Sys2Proof
end

