-- ==== Sys2Proof/WellFormed.lean ====
section
/-! DEFINITION. Which instruction words are well formed (rules R74, R75). An `Instr` needs no check of its own: each
operand has the exact width of its field, so an ill-formed one cannot be written. The checks are on the word: one
clause per row of the table of rule R75, written from that table and not from the decoder. -/

namespace Sys2Proof

/-- The unknown words of rule R75, row by row. -/
def unknownWord (w : Word) : Bool :=
  let op := w.extractLsb' 12 4
  let n := w.extractLsb' 0 4
  let kk := w.extractLsb' 0 8
  (op == 0x0#4 && !(w == 0x00E0#16 || w == 0x00EE#16))
  || (op == 0x5#4 && !(n == 0x0#4))
  || (op == 0x8#4 && [0x8#4, 0x9#4, 0xA#4, 0xB#4, 0xC#4, 0xD#4, 0xF#4].contains n)
  || (op == 0x9#4 && !(n == 0x0#4))
  || (op == 0xE#4 && !([0x9E#8, 0xA1#8].contains kk))
  || (op == 0xF#4 && !([0x07#8, 0x0A#8, 0x15#8, 0x18#8, 0x1E#8, 0x29#8, 0x33#8, 0x55#8, 0x65#8].contains kk))

/-- A word is well formed when it is one of the 34 instructions of rule R73. -/
def wellFormedWord (w : Word) : Bool := !unknownWord w

end Sys2Proof
end

