-- ==== Sys2Proof/Decode.lean ====
section
/-! DEFINITION. Decoding (rules R70 to R79): total on every word and on every list of bytes, rejecting by name; then
the encoder, written from the same table of rule R73. The nibble values are decision D1 (log entry 10); every printed
digit is compared, decision D2. -/

namespace Sys2Proof

/-- Why a decoding gives no instruction. -/
inductive DecodeReject where
  /-- the word matches no row of rule R73 (rule R75) -/
  | unknownWord (w : Word)
  /-- fewer than two bytes were given (rule R70: every instruction is two bytes) -/
  | truncated
  deriving DecidableEq, Repr

/-- The 8xy_ rows of rule R79, by the nibble n. -/
def decodeAlu (w : Word) (x y : Reg) (n : Nibble) : Except DecodeReject Instr :=
  if n = 0x0#4 then .ok (.move x y)
  else if n = 0x1#4 then .ok (.orReg x y)
  else if n = 0x2#4 then .ok (.andReg x y)
  else if n = 0x3#4 then .ok (.xorReg x y)
  else if n = 0x4#4 then .ok (.addReg x y)
  else if n = 0x5#4 then .ok (.sub x y)
  else if n = 0x6#4 then .ok (.shiftRight x y)
  else if n = 0x7#4 then .ok (.subn x y)
  else if n = 0xE#4 then .ok (.shiftLeft x y)
  else .error (.unknownWord w)

/-- The Ex__ rows of rule R79, by the byte kk. -/
def decodeKey (w : Word) (x : Reg) (kk : Byte) : Except DecodeReject Instr :=
  if kk = 0x9E#8 then .ok (.skipIfKeyDown x)
  else if kk = 0xA1#8 then .ok (.skipIfKeyUp x)
  else .error (.unknownWord w)

/-- The Fx__ rows of rule R79, by the byte kk. -/
def decodeMisc (w : Word) (x : Reg) (kk : Byte) : Except DecodeReject Instr :=
  if kk = 0x07#8 then .ok (.getDelayTimer x)
  else if kk = 0x0A#8 then .ok (.waitForKey x)
  else if kk = 0x15#8 then .ok (.setDelayTimer x)
  else if kk = 0x18#8 then .ok (.setSoundTimer x)
  else if kk = 0x1E#8 then .ok (.addToIndex x)
  else if kk = 0x29#8 then .ok (.indexToFontGlyph x)
  else if kk = 0x33#8 then .ok (.storeBcd x)
  else if kk = 0x55#8 then .ok (.storeRegisters x)
  else if kk = 0x65#8 then .ok (.loadRegisters x)
  else .error (.unknownWord w)

/-- The decode function of rule R79, from the fields of rule R71. -/
def decodeFields (w : Word) (op x y n : Nibble) (kk : Byte) (nnn : Addr12) : Except DecodeReject Instr :=
  if op = 0x0#4 then
    if w = 0x00E0#16 then .ok .clearScreen
    else if w = 0x00EE#16 then .ok .ret
    else .error (.unknownWord w)
  else if op = 0x1#4 then .ok (.jump nnn)
  else if op = 0x2#4 then .ok (.call nnn)
  else if op = 0x3#4 then .ok (.skipEqImm x kk)
  else if op = 0x4#4 then .ok (.skipNeqImm x kk)
  else if op = 0x5#4 then if n = 0x0#4 then .ok (.skipEqReg x y) else .error (.unknownWord w)
  else if op = 0x6#4 then .ok (.loadImm x kk)
  else if op = 0x7#4 then .ok (.addImm x kk)
  else if op = 0x8#4 then decodeAlu w x y n
  else if op = 0x9#4 then if n = 0x0#4 then .ok (.skipNeqReg x y) else .error (.unknownWord w)
  else if op = 0xA#4 then .ok (.setIndex nnn)
  else if op = 0xB#4 then .ok (.jumpOffset nnn)
  else if op = 0xC#4 then .ok (.randomAnd x kk)
  else if op = 0xD#4 then .ok (.drawSprite x y n)
  else if op = 0xE#4 then decodeKey w x kk
  else decodeMisc w x kk

/-- `Decode(w)` of rule R79: op = w[15:12], x = w[11:8], y = w[7:4], n = w[3:0], kk = w[7:0], nnn = w[11:0]. -/
def decode (w : Word) : Except DecodeReject Instr :=
  decodeFields w (w.extractLsb' 12 4) (w.extractLsb' 8 4) (w.extractLsb' 4 4) (w.extractLsb' 0 4)
    (w.extractLsb' 0 8) (w.extractLsb' 0 12)

/-- The word of two consecutive bytes: big-endian, the byte at the lower address is bits 15..8 (rule R54). -/
def combineBytes (hi lo : Byte) : Word := hi ++ lo

/-- The two bytes of a word in the order they stand in memory (rule R54). -/
def splitWord (w : Word) : List Byte := [w.extractLsb' 8 8, w.extractLsb' 0 8]

/-- Decode the first instruction of a list of bytes and give the bytes after it (rule R70). -/
def decodeBytes : List Byte → Except DecodeReject (Instr × List Byte)
  | hi :: lo :: rest => (decode (combineBytes hi lo)).map (fun i => (i, rest))
  | _ => .error .truncated

/-- The word with op nibble `op` and address operand nnn (rule R71). -/
def wordNnn (op : Nibble) (nnn : Addr12) : Word := op ++ nnn

/-- The word with op nibble `op`, register x and byte kk (rule R71). -/
def wordXkk (op : Nibble) (x : Reg) (kk : Byte) : Word := wordNnn op (x ++ kk)

/-- The word with op nibble `op`, registers x and y and last nibble n (rule R71). -/
def wordXyn (op : Nibble) (x y : Reg) (n : Nibble) : Word := wordXkk op x (y ++ n)

/-- The encoding column of rule R73. -/
def encode : Instr → Word
  | .clearScreen => 0x00E0#16
  | .ret => 0x00EE#16
  | .jump nnn => wordNnn 0x1#4 nnn
  | .call nnn => wordNnn 0x2#4 nnn
  | .skipEqImm x kk => wordXkk 0x3#4 x kk
  | .skipNeqImm x kk => wordXkk 0x4#4 x kk
  | .skipEqReg x y => wordXyn 0x5#4 x y 0x0#4
  | .loadImm x kk => wordXkk 0x6#4 x kk
  | .addImm x kk => wordXkk 0x7#4 x kk
  | .move x y => wordXyn 0x8#4 x y 0x0#4
  | .orReg x y => wordXyn 0x8#4 x y 0x1#4
  | .andReg x y => wordXyn 0x8#4 x y 0x2#4
  | .xorReg x y => wordXyn 0x8#4 x y 0x3#4
  | .addReg x y => wordXyn 0x8#4 x y 0x4#4
  | .sub x y => wordXyn 0x8#4 x y 0x5#4
  | .shiftRight x y => wordXyn 0x8#4 x y 0x6#4
  | .subn x y => wordXyn 0x8#4 x y 0x7#4
  | .shiftLeft x y => wordXyn 0x8#4 x y 0xE#4
  | .skipNeqReg x y => wordXyn 0x9#4 x y 0x0#4
  | .setIndex nnn => wordNnn 0xA#4 nnn
  | .jumpOffset nnn => wordNnn 0xB#4 nnn
  | .randomAnd x kk => wordXkk 0xC#4 x kk
  | .drawSprite x y n => wordXyn 0xD#4 x y n
  | .skipIfKeyDown x => wordXkk 0xE#4 x 0x9E#8
  | .skipIfKeyUp x => wordXkk 0xE#4 x 0xA1#8
  | .getDelayTimer x => wordXkk 0xF#4 x 0x07#8
  | .waitForKey x => wordXkk 0xF#4 x 0x0A#8
  | .setDelayTimer x => wordXkk 0xF#4 x 0x15#8
  | .setSoundTimer x => wordXkk 0xF#4 x 0x18#8
  | .addToIndex x => wordXkk 0xF#4 x 0x1E#8
  | .indexToFontGlyph x => wordXkk 0xF#4 x 0x29#8
  | .storeBcd x => wordXkk 0xF#4 x 0x33#8
  | .storeRegisters x => wordXkk 0xF#4 x 0x55#8
  | .loadRegisters x => wordXkk 0xF#4 x 0x65#8

/-- The bytes of an instruction in the order they stand in memory (rules R54, R70). -/
def encodeBytes (i : Instr) : List Byte := splitWord (encode i)

/-- The instruction word of `nbits` bits valued `w` as spec/opcode_table.json numbers them (bits above `nbits` are 0). -/
def tableWord (nbits w : Nat) : Word := BitVec.ofNat 16 (w % 2 ^ nbits)

/-- The instruction the decoder reads from a word of the opcode table: the word's two bytes as memory holds them. -/
def decodeTableWord (nbits w : Nat) : Option Instr :=
  match decodeBytes (splitWord (tableWord nbits w)) with
  | .ok (i, _) => some i
  | .error _ => none

end Sys2Proof
end

