-- ==== Sys2Proof/Config.lean ====
section
/-! DEFINITION. What the spec leaves to the environment: the policy for unknown words (rule R5, parameter
UNKNOWN_OPCODE_POLICY; this hardware's choice of it stands in Machine/Ops.lean), and the free values. A free value is
an opaque constant: nothing constrains it, so a claim that mentions it holds whatever it is. The FONT parameter stands
in Machine/Font.lean. -/

namespace Sys2Proof

/-- UNKNOWN_OPCODE_POLICY (rules R5, R75, R95): what an unknown instruction word does. -/
inductive Config.UnknownOpcodePolicy where
  /-- the word is a no-op: the pc advance and the timer tick, nothing else -/
  | ignore
  /-- the word raises `Fault(UnknownOpcode)` -/
  | fault
  deriving DecidableEq, Repr

/-- The random bytes that the environment draws (rules R32, R152; decision D15): the byte of draw number `n` is any
value. Log entry 5. -/
opaque Config.randomByte : Nat → Byte

/-- Names one piece of state whose value a fault leaves unspecified (rule R232). -/
inductive Config.Item where
  | mem (a : Nat) | v (i : Nat) | index | pc | stack (j : Nat) | dt | st | redraw | pixel (r c : Nat) | key (k : Nat)
  deriving DecidableEq, Repr

/-- After the fault of draw number `n`, the value of a byte-wide piece of state (rule R232). Log entry 8. -/
opaque Config.unspecifiedByte : Nat → Config.Item → Byte

/-- After the fault of draw number `n`, the value of a 16-bit piece of state (rule R232). Log entry 8. -/
opaque Config.unspecifiedWord : Nat → Config.Item → Word

/-- After the fault of draw number `n`, the value of a boolean piece of state or of a pixel (rule R232). Log entry 8. -/
opaque Config.unspecifiedBool : Nat → Config.Item → Bool

/-- After the fault of draw number `n`, the number of occupied stack slots (rule R232). Log entry 8. -/
opaque Config.unspecifiedSp : Nat → Fin 17

end Sys2Proof
end

