-- ==== Sys2Proof/Machine/State.lean ====
section
/-! DEFINITION. The state of the CORE (10_state.md rule R20: exactly this record, rule R33: nothing else), the faults,
the refusals, and the machine after reset. State is plain data. -/

namespace Sys2Proof.Machine

/-- The fault kinds of rule R230, in the order of their codes 1 to 6. An instruction's meaning answers `.fault kind`
where its rule says `raise Fault(kind)`; the step then enters the fault (rule R232), and a machine whose latch holds a
kind answers `.fault kind` to every further step (rule R99). Safe: the machine stops where the spec says that it does.
Unsafe only where a source-level choice (decisions D7 to D10) differs from the repository, log entries 14 and 16. -/
inductive Fault where
  /-- code 1, raised by the fetch of every step when pc + 1 > 0xFFF (rules R92, R231). Safe. -/
  | fetchOutOfRange
  /-- code 2, raised by draw-sprite, store-bcd, store-registers and load-registers for a byte address above 0xFFF
  (rules R53, R231). Safe. -/
  | memOutOfRange
  /-- code 3, raised by return with sp = 0 (rules R121, R231). Safe. -/
  | stackUnderflow
  /-- code 4, raised by call with sp = 16 (rules R123, R231). Safe. -/
  | stackOverflow
  /-- code 5, raised by skip-if-key-down and skip-if-key-up with V[x] > 0xF (rules R211, R212, R231). Safe. -/
  | keyOutOfRange
  /-- code 6, raised by an unknown word under the policy Fault only (rules R95, R231), so never on this hardware. Safe. -/
  | unknownOpcode
  deriving DecidableEq, Repr

/-- Why the model gives no outcome. No instruction refuses; the refusals besides `notModelled` are host moves that the
spec says do not exist. -/
inductive Refusal where
  /-- an instruction that has no meaning yet; raised by no arm of `exec`. Safe. -/
  | notModelled (mnemonic : String)
  /-- LoadProgram of more than 3584 bytes: the host has no such move (rule R101). Safe. -/
  | programTooLong
  /-- KeyDown or KeyUp of a key above 15: the host has no such move (rule R102). Safe. -/
  | noSuchKey
  /-- Restore of a state that is not well-formed: refused (rule R105). Safe. -/
  | illFormedSnapshot
  /-- Step of a machine that has not been reset since its construction: there is no such step (rule R264, decision D6;
  93_implementation_defined.md: refuse). Safe, log entry 20. -/
  | stepBeforeReset
  deriving DecidableEq, Repr

/-- Memory: the bytes that differ from what an unlisted address reads as, addresses strictly rising (`Memory.wf`). -/
abbrev Memory := List Host.Cell

/-- The framebuffer `FB[0..31][0..63]`: 32 rows of 64 one-byte cells (rules R20, R29). -/
abbrev Framebuffer := Vector (Vector Byte 64) 32


/-- The state record of rule R20, and two fields of the model's own, `draws` and `wasReset`. -/
structure State where
  /-- memory, 4096 bytes (rule R50) -/
  mem : Memory
  /-- the general registers V0 to VF (rule R21) -/
  v : Vector Byte 16
  /-- the index register I (rule R23) -/
  index : Word
  /-- the program counter (rule R24) -/
  pc : Word
  /-- the return-address stack (rule R25) -/
  stack : Vector Word 16
  /-- the number of occupied stack slots, 0 to 16 (rules R25, R26) -/
  sp : Fin 17
  /-- the delay timer (rule R27) -/
  dt : Byte
  /-- the sound timer (rule R27) -/
  st : Byte
  /-- the redraw-pending flag (rule R28) -/
  redraw : Bool
  /-- the framebuffer, each cell 0 or 1 (rule R29) -/
  fb : Framebuffer
  /-- the keypad: true while the key is pressed (rule R30) -/
  key : Vector Bool 16
  /-- the fault latch (rule R31) -/
  fault : Option Fault
  /-- THE MODEL'S OWN: how many free values have been drawn (log entry 6) -/
  draws : Nat
  /-- THE MODEL'S OWN: whether Reset has been issued since construction (rule R264; log entry 20) -/
  wasReset : Bool
  deriving DecidableEq, Repr

/-- The machine right after Reset (rules R36, R260). Memory lists nothing: an unlisted address reads as its reset
contents. The zeros besides pc, font, display and latch are decision D5 (log entry 3); the keypad, which Reset does not
touch, is as constructed, rule R38 (log entry 4). -/
def State.reset : State where
  mem := []
  v := Vector.replicate 16 0#8
  index := 0#16
  pc := 0x200#16
  stack := Vector.replicate 16 0#16
  sp := 0
  dt := 0#8
  st := 0#8
  redraw := false
  fb := Vector.replicate 32 (Vector.replicate 64 0#8)
  key := Vector.replicate 16 false
  fault := none
  draws := 0
  wasReset := true

end Sys2Proof.Machine
end

