-- ==== Sys2Proof/Machine/Font.lean ====
section
/-! DEFINITION. The FONT parameter (rules R5, R37): 16 glyphs of 5 bytes at addresses 0x000 to 0x04F. -/

namespace Sys2Proof.Machine

/-- PRESUMED (the spec's own mark: from general knowledge, decision D4; log entry 2), unsafe: the default FONT of rule
R37, one glyph a line, glyph g at addresses 5·g to 5·g + 4. -/
def font : List Byte :=
  [0xF0#8, 0x90#8, 0x90#8, 0x90#8, 0xF0#8] ++   -- 0
  [0x20#8, 0x60#8, 0x20#8, 0x20#8, 0x70#8] ++   -- 1
  [0xF0#8, 0x10#8, 0xF0#8, 0x80#8, 0xF0#8] ++   -- 2
  [0xF0#8, 0x10#8, 0xF0#8, 0x10#8, 0xF0#8] ++   -- 3
  [0x90#8, 0x90#8, 0xF0#8, 0x10#8, 0x10#8] ++   -- 4
  [0xF0#8, 0x80#8, 0xF0#8, 0x10#8, 0xF0#8] ++   -- 5
  [0xF0#8, 0x80#8, 0xF0#8, 0x90#8, 0xF0#8] ++   -- 6
  [0xF0#8, 0x10#8, 0x20#8, 0x40#8, 0x40#8] ++   -- 7
  [0xF0#8, 0x90#8, 0xF0#8, 0x90#8, 0xF0#8] ++   -- 8
  [0xF0#8, 0x90#8, 0xF0#8, 0x10#8, 0xF0#8] ++   -- 9
  [0xF0#8, 0x90#8, 0xF0#8, 0x90#8, 0x90#8] ++   -- A
  [0xE0#8, 0x90#8, 0xE0#8, 0x90#8, 0xE0#8] ++   -- B
  [0xF0#8, 0x80#8, 0x80#8, 0x80#8, 0xF0#8] ++   -- C
  [0xE0#8, 0x90#8, 0x90#8, 0x90#8, 0xE0#8] ++   -- D
  [0xF0#8, 0x80#8, 0xF0#8, 0x80#8, 0xF0#8] ++   -- E
  [0xF0#8, 0x80#8, 0xF0#8, 0x80#8, 0x80#8]      -- F

/-- What an address that memory does not list reads as: its contents after Reset (rule R36): the font at 0x000 to
0x04F, 0x00 above it (decision D5; log entry 1). -/
def unlistedByte (a : Nat) : Byte := font.getD a 0x00#8

end Sys2Proof.Machine
end

