-- ==== Sys2Proof/Machine/Ops.lean ====
section
/-! DEFINITION. The named operations over memory, registers, stack, timers and framebuffer; the fetch; raising and
entering a fault; the timer tick; the end of a step. Every read and write of the state goes through them. -/

namespace Sys2Proof.Machine

/-! Memory (20_memory.md). -/

/-- The byte that memory lists at an address, if it lists one. -/
def Memory.lookup : Memory → Nat → Option Byte
  | [], _ => none
  | (b, w) :: m, a => if b = a then some w else Memory.lookup m a

/-- `mem[a]`. -/
def Memory.get (m : Memory) (a : Nat) : Byte := (Memory.lookup m a).getD (unlistedByte a)

/-- List a byte at an address, in the place that keeps addresses rising. -/
def Memory.insert : Memory → Nat → Byte → Memory
  | [], a, w => [(a, w)]
  | (b, u) :: m, a, w =>
    if a < b then (a, w) :: (b, u) :: m
    else if a = b then (a, w) :: m
    else (b, u) :: Memory.insert m a w

/-- Take an address off the list. -/
def Memory.erase : Memory → Nat → Memory
  | [], _ => []
  | (b, u) :: m, a => if b = a then Memory.erase m a else (b, u) :: Memory.erase m a

/-- `mem[a] <- w`, keeping the canonical form: the value an unlisted address reads as is not listed. -/
def Memory.set (m : Memory) (a : Nat) (w : Byte) : Memory :=
  if w = unlistedByte a then Memory.erase m a else Memory.insert m a w

/-- The canonical form from address `lo` on: addresses strictly rising and below 4096, no entry equal to what an
unlisted address reads as. -/
def Memory.wfFrom : Nat → Memory → Bool
  | _, [] => true
  | lo, (a, w) :: m => decide (lo ≤ a) && decide (a < 0x1000) && !(w == unlistedByte a) && Memory.wfFrom (a + 1) m

/-- Memory is in its canonical form. -/
def Memory.wf (m : Memory) : Bool := Memory.wfFrom 0 m

/-- The canonical list of the `n` bytes that `f` gives from address `a` on. -/
def Memory.ofFun (f : Nat → Byte) : Nat → Nat → Memory
  | _, 0 => []
  | a, n + 1 => if f a = unlistedByte a then Memory.ofFun f (a + 1) n else (a, f a) :: Memory.ofFun f (a + 1) n

/-- `mem[a]` of a state. -/
def State.byte (s : State) (a : Nat) : Byte := s.mem.get a

/-- `mem[a] <- w` of a state. -/
def State.setByte (s : State) (a : Nat) (w : Byte) : State := { s with mem := s.mem.set a w }

/-- `MemRead(a, 1)` of rule R53. -/
def memRead (s : State) (a : Nat) : Except Fault Byte :=
  if a > 0xFFF then .error .memOutOfRange else .ok (s.byte a)

/-- `MemWrite(a, 1, w)` of rule R53. -/
def memWrite (s : State) (a : Nat) (w : Byte) : Except Fault State :=
  if a > 0xFFF then .error .memOutOfRange else .ok (s.setByte a w)

/-- `MemRead` at `n` consecutive addresses from `a`, in rising order; the addresses do not wrap (rule R52). -/
def readBlock (s : State) (a : Nat) : Nat → Except Fault (List Byte)
  | 0 => .ok []
  | n + 1 =>
    match memRead s a with
    | .error k => .error k
    | .ok b =>
      match readBlock s (a + 1) n with
      | .error k => .error k
      | .ok bs => .ok (b :: bs)

/-- `MemWrite` of a list of bytes at consecutive addresses from `a`, in rising order; the addresses do not wrap
(rule R52). -/
def writeBlock (s : State) (a : Nat) : List Byte → Except Fault State
  | [] => .ok s
  | b :: bs =>
    match memWrite s a b with
    | .error k => .error k
    | .ok t => writeBlock t (a + 1) bs

/-- Write bytes at consecutive addresses from `a`, passing over an address outside memory: for the host's moves only,
which write inside memory. -/
def State.placeBytes (s : State) (a : Nat) : List Byte → State
  | [] => s
  | b :: bs => State.placeBytes (if a > 0xFFF then s else s.setByte a b) (a + 1) bs

/-! Registers (10_state.md rules R21 to R28). -/

/-- `V[x]`. -/
def State.reg (s : State) (x : Reg) : Byte := s.v[x.toNat]'x.isLt

/-- `V[x] <- w`. -/
def State.setReg (s : State) (x : Reg) (w : Byte) : State := { s with v := s.v.set x.toNat w x.isLt }

/-- `V[j] <- b` for the bytes of a list, from register `j` on (rule R175). -/
def State.setRegsFrom (s : State) (j : Nat) : List Byte → State
  | [] => s
  | b :: bs => State.setRegsFrom { s with v := s.v.setIfInBounds j b } (j + 1) bs

/-- `V[0..x]`, the x + 1 registers from V0 (rule R174). -/
def State.regsTo (s : State) (x : Reg) : List Byte := s.v.toList.take (x.toNat + 1)

/-- `pc <- target`. -/
def State.setPc (s : State) (w : Word) : State := { s with pc := w }

/-- The pc advance of a step and of a taken skip: `pc +_16 2` (rules R93, R124). -/
def State.advancePc (s : State) : State := s.setPc (s.pc + 2#16)

/-- `pc <- pc -_16 2` (rule R214). -/
def State.retreatPc (s : State) : State := s.setPc (s.pc - 2#16)

/-- `if c: pc <- pc +_16 2`, the skip of rule R120. -/
def State.skipIf (s : State) (c : Bool) : State := if c then s.advancePc else s

/-- `I <- w`. -/
def State.setIndex (s : State) (w : Word) : State := { s with index := w }

/-- `dt <- w`. -/
def State.setDt (s : State) (w : Byte) : State := { s with dt := w }

/-- `st <- w`. -/
def State.setSt (s : State) (w : Byte) : State := { s with st := w }

/-- `redraw <- b`. -/
def State.setRedraw (s : State) (b : Bool) : State := { s with redraw := b }

/-- Replace the framebuffer. -/
def State.setFb (s : State) (f : Framebuffer) : State := { s with fb := f }

/-- `Key[k] <- b`. -/
def State.setKey (s : State) (k : Fin 16) (b : Bool) : State := { s with key := s.key.set k.val b k.isLt }

/-- The random byte of this draw and the state after it (rules R32, R152; log entry 5). -/
def drawRandom (s : State) : Byte × State := (Config.randomByte s.draws, { s with draws := s.draws + 1 })

/-! The return-address stack (rules R25, R121, R123). -/

/-- Push `w`: fault if all 16 slots are occupied, else write `stack[sp]`, then increment sp (rule R123). -/
def pushStack (s : State) (w : Word) : Except Fault State :=
  if h : s.sp.val = 16 then .error .stackOverflow
  else .ok { s with
    stack := s.stack.set s.sp.val w (by omega)
    sp := ⟨s.sp.val + 1, by omega⟩ }

/-- Pop: fault if no slot is occupied, else decrement sp, then read `stack[sp]` (rule R121); the slot keeps its value
(rule R25). -/
def popStack (s : State) : Except Fault (Word × State) :=
  if h : s.sp.val = 0 then .error .stackUnderflow
  else .ok (s.stack[s.sp.val - 1]'(by omega), { s with sp := ⟨s.sp.val - 1, by omega⟩ })

/-! The framebuffer (44_display.md). -/

/-- `FB[r][c]`. -/
def Framebuffer.get (f : Framebuffer) (r : Fin 32) (c : Fin 64) : Byte := (f[r.val]'r.isLt)[c.val]'c.isLt

/-- `FB[r][c] <- w`. -/
def Framebuffer.set (f : Framebuffer) (r : Fin 32) (c : Fin 64) (w : Byte) : Framebuffer :=
  Vector.set f r.val ((f[r.val]'r.isLt).set c.val w c.isLt) r.isLt

/-- The framebuffer with every cell 0 (rule R191). -/
def Framebuffer.blank : Framebuffer := Vector.replicate 32 (Vector.replicate 64 0#8)

/-- Every cell is 0 or 1 (rules R29, R39). -/
def Framebuffer.wf (f : Framebuffer) : Bool := f.toList.all (fun row => row.toList.all (fun w => w == 0#8 || w == 1#8))

/-- One sprite bit that is 1: a collision if the cell holds 1, then XOR (rules R192, R193). -/
def xorPixel (p : Framebuffer × Bool) (r : Fin 32) (c : Fin 64) : Framebuffer × Bool :=
  (Framebuffer.set p.1 r c (Framebuffer.get p.1 r c ^^^ 1#8), p.2 || Framebuffer.get p.1 r c == 1#8)

/-- One sprite byte on row `r`: lanes c = 0..7, lane c being bit 7 − c of the byte, at column (x0 + c) mod 64
(rules R192, R196). `n` is how many lanes, the last ones, are left to draw. -/
def blitRow (r : Fin 32) (x0 : Nat) (b : Byte) : Nat → Framebuffer × Bool → Framebuffer × Bool
  | 0, p => p
  | n + 1, p => blitRow r x0 b n (if b.getLsbD n then xorPixel p r (Fin.ofNat 64 (x0 + (7 - n))) else p)

/-- `DrawSprite` of rule R192: sprite byte r on row (y0 + r) mod 32. -/
def blit (x0 : Nat) : Nat → List Byte → Framebuffer × Bool → Framebuffer × Bool
  | _, [], p => p
  | y, b :: bs, p => blit x0 (y + 1) bs (blitRow (Fin.ofNat 32 y) x0 b 8 p)

/-- `DrawSprite(x0, y0, bytes) -> collision` (rule R192). -/
def drawSpriteAt (f : Framebuffer) (x0 y0 : Byte) (bytes : List Byte) : Framebuffer × Bool :=
  blit x0.toNat y0.toNat bytes (f, false)

/-! The keypad (45_keypad_timers.md rule R210). -/

/-- `Key(k)` for a key index 0 to 15. -/
def State.keyDown (s : State) (k : Fin 16) : Bool := s.key[k.val]'k.isLt

/-- The lowest-indexed pressed key, if a key is pressed (rule R214). -/
def State.lowestKey (s : State) : Option Nat := (List.range 16).find? (fun k => s.key[k]?.getD false)

/-! Well-formedness (rule R39). -/

/-- The state is well-formed: every framebuffer cell is 0 or 1 (rule R39), and memory is in the model's canonical form.
sp ≤ 16 holds by the type of sp (log entry 19). -/
def State.wf (s : State) : Bool := s.mem.wf && s.fb.wf

/-! Faults (60_exceptions.md). -/

/-- A state of which nothing is known but that it is well-formed: what a fault leaves besides the latch (rule R232). -/
def unspecifiedState (n : Nat) : State where
  mem := Memory.ofFun (fun a => Config.unspecifiedByte n (.mem a)) 0 0x1000
  v := Vector.ofFn (fun i => Config.unspecifiedByte n (.v i.val))
  index := Config.unspecifiedWord n .index
  pc := Config.unspecifiedWord n .pc
  stack := Vector.ofFn (fun j => Config.unspecifiedWord n (.stack j.val))
  sp := Config.unspecifiedSp n
  dt := Config.unspecifiedByte n .dt
  st := Config.unspecifiedByte n .st
  redraw := Config.unspecifiedBool n .redraw
  fb := Vector.ofFn (fun r => Vector.ofFn (fun c => if Config.unspecifiedBool n (.pixel r.val c.val) then 1#8 else 0#8))
  key := Vector.ofFn (fun k => Config.unspecifiedBool n (.key k.val))
  fault := none
  draws := n + 1
  wasReset := true

/-- Fault entry (rule R232): `fault <- kind`, and every other field of the state is unspecified. Nothing is saved, no
handler runs, no vector is taken. That the machine has been reset stays true of it (log entry 20). -/
def enterFault (k : Fault) (s : State) : State :=
  { unspecifiedState s.draws with
    fault := some k
    wasReset := s.wasReset }

/-- What `raise Fault(kind)` is to a meaning: the outcome `.fault kind`, after which nothing of the rule runs (rule R8). -/
def raising (r : Except Fault State) : Host.Outcome State Fault Refusal :=
  match r with
  | .ok t => .next t
  | .error k => .fault k

/-! The parts of a step (40_cycle.md). -/

/-- What bars a step, and the outcome then: a latched fault (rule R99: no transition); no Reset since construction
(rule R264, decision D6: there is no such step). -/
def stepBar (s : State) : Option (Host.Outcome State Fault Refusal) :=
  match s.fault with
  | some k => some (.fault k)
  | none => if s.wasReset then none else some (.refused .stepBeforeReset)

/-- `Fetch()` of rule R92: the big-endian word at pc, pc + 1. -/
def fetch (s : State) : Except Fault Word :=
  if s.pc.toNat + 1 > 0xFFF then .error .fetchOutOfRange
  else .ok (combineBytes (s.byte s.pc.toNat) (s.byte (s.pc.toNat + 1)))

/-- One timer's decrement, floor at zero (rules R27, R217). -/
def tickByte (w : Byte) : Byte := if w ≠ 0#8 then w - 1#8 else w

/-- `TimerTick()` of rule R217. -/
def timerTick (s : State) : State := (s.setDt (tickByte s.dt)).setSt (tickByte s.st)

/-- UNKNOWN_OPCODE_POLICY of this hardware: Ignore (rules R5, R75; decision D3, log entry 9). -/
def unknownOpcodePolicy : Config.UnknownOpcodePolicy := .ignore

/-- `Execute(Unknown, w, rnd)` of rule R95. -/
def execUnknown (p : Config.UnknownOpcodePolicy) (s : State) : Host.Outcome State Fault Refusal :=
  match p with
  | .ignore => .next s
  | .fault => .fault .unknownOpcode

/-- The end of a step (rules R91, R96, R232): the timer tick after an execute phase that does not fault, the fault entry
after one that does. -/
def finishStep (s : State) (o : Host.Outcome State Fault Refusal) : Host.Outcome State Fault Refusal :=
  match o with
  | .next t => .next (timerTick t)
  | .fault k => .next (enterFault k s)
  | .refused r => .refused r

end Sys2Proof.Machine
end

