-- ==== Sys2Proof/Machine/Operands.lean ====
section
/-! DEFINITION. The operand forms (rule R72, rule R176): registers x and y, the byte kk, the address nnn, data addressed
through I, and the key index in V[x]. -/

namespace Sys2Proof.Machine

/-- `zext_16(nnn)`: the 12-bit address as it is written to pc or I (rule R72). -/
def addrOperand (nnn : Addr12) : Word := nnn.zeroExtend 16

/-- `zext_16(V[x])` (rules R8, R128, R171, R172). -/
def regWord (s : State) (x : Reg) : Word := (s.reg x).zeroExtend 16

/-- The effective address I, a natural number: I + k never wraps (rules R52, R176). -/
def indexAddr (s : State) : Nat := s.index.toNat

/-- The n sprite bytes from I (rule R195); none is read if n = 0. -/
def spriteOperand (s : State) (n : Nibble) : Except Fault (List Byte) := readBlock s (indexAddr s) n.toNat

/-- The key that V[x] names: V[x] > 0xF raises KeyOutOfRange (rules R211, R212). -/
def keyOperand (s : State) (x : Reg) : Except Fault (Fin 16) :=
  if h : (s.reg x).toNat < 16 then .ok ⟨(s.reg x).toNat, h⟩ else .error .keyOutOfRange

/-- The three decimal digits of a byte: hundreds, tens, units (rule R173). -/
def bcdDigits (w : Byte) : List Byte :=
  [BitVec.ofNat 8 (w.toNat / 100), BitVec.ofNat 8 (w.toNat / 10 % 10), BitVec.ofNat 8 (w.toNat % 10)]

end Sys2Proof.Machine
end

