-- ==== Sys2Proof/Machine/Flags.lean ====
section
/-! DEFINITION. Every value that an instruction writes to VF as a flag (rule R34). -/

namespace Sys2Proof.Machine

/-- `bool2bit(b)` (rule R8). -/
def boolBit (b : Bool) : Byte := if b then 1#8 else 0#8

/-- VF as carry: 1 if a + b > 255 (rule R147). -/
def carryFlag (a b : Byte) : Byte := boolBit (decide (a.toNat + b.toNat > 255))

/-- VF as no-borrow of a − b: 1 if a ≥ b (rules R148, R150). -/
def noBorrowFlag (a b : Byte) : Byte := boolBit (decide (a.toNat ≥ b.toNat))

/-- VF as the bit shifted out to the right, 0x00 or 0x01 (rule R149). -/
def lowBitFlag (a : Byte) : Byte := a &&& 0x01#8

/-- VF as the bit shifted out to the left, 0x00 or 0x80, not normalised (rule R151). -/
def highBitFlag (a : Byte) : Byte := a &&& 0x80#8

/-- `V[0xF] <- w`. -/
def State.setFlag (s : State) (w : Byte) : State := s.setReg regF w

end Sys2Proof.Machine
end

