-- ==== Sys2Proof/Machine/Alu.lean ====
section
/-! DEFINITION. Register arithmetic and logic (42_alu.md). No meaning here raises a fault. -/

namespace Sys2Proof.Machine

/-- load-imm, rule R141. -/
def execLoadImm (x : Reg) (kk : Byte) (s : State) : Host.Outcome State Fault Refusal := .next (s.setReg x kk)

/-- add-imm, rule R142: wraps, writes no flag. -/
def execAddImm (x : Reg) (kk : Byte) (s : State) : Host.Outcome State Fault Refusal :=
  .next (s.setReg x (s.reg x + kk))

/-- move, rule R143. -/
def execMove (x y : Reg) (s : State) : Host.Outcome State Fault Refusal := .next (s.setReg x (s.reg y))

/-- or, rule R144. -/
def execOr (x y : Reg) (s : State) : Host.Outcome State Fault Refusal := .next (s.setReg x (s.reg x ||| s.reg y))

/-- and, rule R145. -/
def execAnd (x y : Reg) (s : State) : Host.Outcome State Fault Refusal := .next (s.setReg x (s.reg x &&& s.reg y))

/-- xor, rule R146. -/
def execXor (x y : Reg) (s : State) : Host.Outcome State Fault Refusal := .next (s.setReg x (s.reg x ^^^ s.reg y))

/-- add-reg, rule R147: result and flag from the starting values, the flag written last (decision D12). -/
def execAddReg (x y : Reg) (s : State) : Host.Outcome State Fault Refusal :=
  .next ((s.setReg x (s.reg x + s.reg y)).setFlag (carryFlag (s.reg x) (s.reg y)))

/-- sub, x − y, rule R148: the flag written last (decision D12). -/
def execSub (x y : Reg) (s : State) : Host.Outcome State Fault Refusal :=
  .next ((s.setReg x (s.reg x - s.reg y)).setFlag (noBorrowFlag (s.reg x) (s.reg y)))

/-- subn, y − x, rule R150: the flag written last (decision D12). -/
def execSubn (x y : Reg) (s : State) : Host.Outcome State Fault Refusal :=
  .next ((s.setReg x (s.reg y - s.reg x)).setFlag (noBorrowFlag (s.reg y) (s.reg x)))

/-- The second write of a shift: V[x] is read again after the flag write (rule R9, 90_conflicts.md C4). -/
def shiftReread (x : Reg) (shift : Byte → Byte) (s : State) : State := s.setReg x (shift (s.reg x))

/-- shift-right, rule R149: the flag first, then the shift of the re-read V[x]; y is not read. -/
def execShiftRight (x _y : Reg) (s : State) : Host.Outcome State Fault Refusal :=
  .next (shiftReread x (fun w => w >>> 1) (s.setFlag (lowBitFlag (s.reg x))))

/-- shift-left, rule R151: the flag first, then the shift of the re-read V[x]; y is not read. -/
def execShiftLeft (x _y : Reg) (s : State) : Host.Outcome State Fault Refusal :=
  .next (shiftReread x (fun w => w <<< 1) (s.setFlag (highBitFlag (s.reg x))))

/-- random-and, rule R152: the random byte is a free value (log entry 5). -/
def execRandomAnd (x : Reg) (kk : Byte) (s : State) : Host.Outcome State Fault Refusal :=
  .next ((drawRandom s).2.setReg x ((drawRandom s).1 &&& kk))

end Sys2Proof.Machine
end

