-- ==== Sys2Proof/Machine/Control.lean ====
section
/-! DEFINITION. Control transfer (41_control_flow.md). pc is already advanced when a meaning runs (rule R93). -/

namespace Sys2Proof.Machine

/-- return, rule R121. -/
def execReturn (s : State) : Host.Outcome State Fault Refusal :=
  raising ((popStack s).map (fun p => p.2.setPc p.1))

/-- jump, rule R122. -/
def execJump (nnn : Addr12) (s : State) : Host.Outcome State Fault Refusal := .next (s.setPc (addrOperand nnn))

/-- call, rule R123: pushes the advanced pc. -/
def execCall (nnn : Addr12) (s : State) : Host.Outcome State Fault Refusal :=
  raising ((pushStack s s.pc).map (fun t => t.setPc (addrOperand nnn)))

/-- skip-eq-imm, rule R124. -/
def execSkipEqImm (x : Reg) (kk : Byte) (s : State) : Host.Outcome State Fault Refusal :=
  .next (s.skipIf (s.reg x == kk))

/-- skip-neq-imm, rule R125. -/
def execSkipNeqImm (x : Reg) (kk : Byte) (s : State) : Host.Outcome State Fault Refusal :=
  .next (s.skipIf (s.reg x != kk))

/-- skip-eq-reg, rule R126. -/
def execSkipEqReg (x y : Reg) (s : State) : Host.Outcome State Fault Refusal :=
  .next (s.skipIf (s.reg x == s.reg y))

/-- skip-neq-reg, rule R127. -/
def execSkipNeqReg (x y : Reg) (s : State) : Host.Outcome State Fault Refusal :=
  .next (s.skipIf (s.reg x != s.reg y))

/-- jump-offset, rule R128: V0, whatever the x bits of nnn are. -/
def execJumpOffset (nnn : Addr12) (s : State) : Host.Outcome State Fault Refusal :=
  .next (s.setPc (regWord s 0x0#4 + addrOperand nnn))

end Sys2Proof.Machine
end

