-- ==== Sys2Proof/Machine/Display.lean ====
section
/-! DEFINITION. Display instructions (44_display.md). -/

namespace Sys2Proof.Machine

/-- clear-screen, rule R194. -/
def execClearScreen (s : State) : Host.Outcome State Fault Refusal :=
  .next ((s.setFb Framebuffer.blank).setRedraw true)

/-- What draw-sprite does with the sprite bytes it has read (rule R195): the coordinates are read before VF is written. -/
def drawBytes (s : State) (x y : Reg) (bytes : List Byte) : State :=
  ((s.setFb (drawSpriteAt s.fb (s.reg x) (s.reg y) bytes).1).setFlag
    (boolBit (drawSpriteAt s.fb (s.reg x) (s.reg y) bytes).2)).setRedraw true

/-- draw-sprite, rule R195. -/
def execDrawSprite (x y : Reg) (n : Nibble) (s : State) : Host.Outcome State Fault Refusal :=
  raising ((spriteOperand s n).map (drawBytes s x y))

end Sys2Proof.Machine
end

