-- ==== Sys2Proof/Machine/IndexMemory.lean ====
section
/-! DEFINITION. Index register and memory transfers (43_index_memory.md). No meaning here changes I besides the first
three, and none writes a flag. -/

namespace Sys2Proof.Machine

/-- set-index, rule R170. -/
def execSetIndex (nnn : Addr12) (s : State) : Host.Outcome State Fault Refusal :=
  .next (s.setIndex (addrOperand nnn))

/-- add-to-index, rule R171: modulo 2^16 (decision D14), VF not written. -/
def execAddToIndex (x : Reg) (s : State) : Host.Outcome State Fault Refusal :=
  .next (s.setIndex (s.index + regWord s x))

/-- index-to-font-glyph, rule R172: V[x] is not masked. -/
def execIndexToFontGlyph (x : Reg) (s : State) : Host.Outcome State Fault Refusal :=
  .next (s.setIndex (regWord s x * 5#16))

/-- store-bcd, rule R173. -/
def execStoreBcd (x : Reg) (s : State) : Host.Outcome State Fault Refusal :=
  raising (writeBlock s (indexAddr s) (bcdDigits (s.reg x)))

/-- store-registers, rule R174. -/
def execStoreRegisters (x : Reg) (s : State) : Host.Outcome State Fault Refusal :=
  raising (writeBlock s (indexAddr s) (s.regsTo x))

/-- load-registers, rule R175. -/
def execLoadRegisters (x : Reg) (s : State) : Host.Outcome State Fault Refusal :=
  raising ((readBlock s (indexAddr s) (x.toNat + 1)).map (s.setRegsFrom 0))

end Sys2Proof.Machine
end

