-- ==== Sys2Proof/Machine/KeypadTimers.lean ====
section
/-! DEFINITION. Keypad and timer instructions (45_keypad_timers.md). The tick is the step's, not the instruction's. -/

namespace Sys2Proof.Machine

/-- skip-if-key-down, rule R211. -/
def execSkipIfKeyDown (x : Reg) (s : State) : Host.Outcome State Fault Refusal :=
  raising ((keyOperand s x).map (fun k => s.skipIf (s.keyDown k)))

/-- skip-if-key-up, rule R212. -/
def execSkipIfKeyUp (x : Reg) (s : State) : Host.Outcome State Fault Refusal :=
  raising ((keyOperand s x).map (fun k => s.skipIf (!s.keyDown k)))

/-- get-delay-timer, rule R213: dt before this step's tick. -/
def execGetDelayTimer (x : Reg) (s : State) : Host.Outcome State Fault Refusal := .next (s.setReg x s.dt)

/-- wait-for-key, rule R214: with no key pressed, back to this instruction. -/
def execWaitForKey (x : Reg) (s : State) : Host.Outcome State Fault Refusal :=
  match s.lowestKey with
  | none => .next s.retreatPc
  | some k => .next (s.setReg x (BitVec.ofNat 8 k))

/-- set-delay-timer, rule R215. -/
def execSetDelayTimer (x : Reg) (s : State) : Host.Outcome State Fault Refusal := .next (s.setDt (s.reg x))

/-- set-sound-timer, rule R216. -/
def execSetSoundTimer (x : Reg) (s : State) : Host.Outcome State Fault Refusal := .next (s.setSt (s.reg x))

end Sys2Proof.Machine
end

