-- ==== Sys2Proof/Machine/Step.lean ====
section
/-! DEFINITION. One step (40_cycle.md rule R91), for a policy for unknown words and then for this hardware's. -/

namespace Sys2Proof.Machine

/-- `Execute(Decode(w), w, rnd)` of rule R91: the instruction's meaning, or rule R95 if the word is unknown. -/
def executeWord (p : Config.UnknownOpcodePolicy) (w : Word) (s : State) : Host.Outcome State Fault Refusal :=
  match decode w with
  | .ok i => exec i s
  | .error _ => execUnknown p s

/-- `Step(rnd)` of rule R91: no transition where a step is barred (rules R99, R264); else fetch, advance pc, decode,
execute, and end the step. -/
def stepWith (p : Config.UnknownOpcodePolicy) (s : State) : Host.Outcome State Fault Refusal :=
  match stepBar s with
  | some o => o
  | none =>
    match fetch s with
    | .error k => finishStep s (.fault k)
    | .ok w => finishStep s (executeWord p w s.advancePc)

/-- The step of this hardware. -/
def step (s : State) : Host.Outcome State Fault Refusal := stepWith unknownOpcodePolicy s

/-- The state with an instruction word of the opcode table stored, big-endian, where the next step fetches: at pc and
pc + 1. Nothing else changes. -/
def State.withFetchWord (s : State) (nbits w : Nat) : State := s.placeBytes s.pc.toNat (splitWord (tableWord nbits w))

end Sys2Proof.Machine
end

