-- ==== Sys2Proof/Machine/Transactions.lean ====
section
/-! DEFINITION. The host's transactions (40_cycle.md rules R100 to R105; 70_reset_and_hazards.md rules R260 to R266):
each is taken whole between steps. A move that the host does not have is refused by name. -/

namespace Sys2Proof.Machine

/-- The machine after construction and before the first Reset (rule R38): everything zero, memory without the font.
It has no step before its first Reset (rule R264, log entry 20). -/
def State.constructed : State :=
  { State.reset with
    mem := Memory.ofFun (fun _ => 0#8) 0 0x1000
    pc := 0x0000#16
    wasReset := false }

/-- Reset for a FONT parameter (rules R5, R260): every field as after reset, the font in low memory; the keypad is not
touched (rule R261). The counter of free values goes on (log entry 6). -/
def resetWithFont (glyphs : List Byte) (s : State) : State :=
  { State.reset with
    mem := Memory.ofFun (fun a => glyphs.getD a 0#8) 0 0x1000
    key := s.key
    draws := s.draws }

/-- Reset of this hardware (rule R260): memory lists nothing, since an unlisted address reads as its reset contents. -/
def hostReset (s : State) : State := { State.reset with key := s.key, draws := s.draws }

/-- LoadProgram(b) (rule R101): b[j] at 0x200 + j; more than 3584 bytes are refused. -/
def loadProgram (b : List Byte) (s : State) : Host.Outcome State Fault Refusal :=
  if b.length > 0xE00 then .refused .programTooLong else .next (s.placeBytes 0x200 b)

/-- KeyDown(k) and KeyUp(k) (rule R102): the key's level; k above 15 is refused. -/
def keyEvent (k : Nat) (down : Bool) (s : State) : Host.Outcome State Fault Refusal :=
  if h : k < 16 then .next (s.setKey ⟨k, h⟩ down) else .refused .noSuchKey

/-- ClearRedraw (rule R104). -/
def clearRedraw (s : State) : State := s.setRedraw false

/-- The latch after a Restore: the restored state's fault; but a latched fault stays where the restored state has none,
since only Reset sets the latch back to none (rules R31, R235, R266, decision D11). -/
def restoredLatch (restored current : Option Fault) : Option Fault :=
  match restored with
  | some k => some k
  | none => current

/-- Restore(t) (rule R105), admitted for every well-formed t in whatever state the machine is in: the state of rule R20
becomes t's, but a latched fault is not cleared by it; a t that is not well-formed is refused.

DESIGN CHOICE (log entry 24), in both halves: where rule R105 meets the rules that only Reset clears the latch (R31, R99,
R235, R266), those rules and decision D11 win, so a faulted machine is stuck until Reset; where it meets the sentences of
rules R28, R29, R30 and R104 on who writes redraw, the framebuffer and the keypad, rule R105 wins, so Restore replaces
them. The model's own two fields go on (log entries 6, 20). -/
def restore (t : State) (s : State) : Host.Outcome State Fault Refusal :=
  if t.wf = false then .refused .illFormedSnapshot
  else .next { t with
    fault := restoredLatch t.fault s.fault
    draws := s.draws
    wasReset := s.wasReset }

/-- ReadMem(a) (rule R103): mem[a] for a ≤ 0xFFF.

DESIGN CHOICE, safe (log entry 27): the rule does not say what is read above 0xFFF; the model answers no byte there,
raises no fault and changes no state. -/
def readMem (s : State) (a : Nat) : Option Byte := if a ≤ 0xFFF then some (s.byte a) else none

/-- ReadFB (rule R103): the 2048 framebuffer bytes, row-major. -/
def readFb (s : State) : List Byte := s.fb.toList.flatMap Vector.toList

/-- ReadRedraw (rule R103). -/
def readRedraw (s : State) : Bool := s.redraw

/-- What ReadState returns (rule R103). -/
structure StateReading where
  v : Vector Byte 16
  index : Word
  pc : Word
  sp : Fin 17
  stack : Vector Word 16
  dt : Byte
  st : Byte
  key : Vector Bool 16
  fault : Option Fault
  deriving DecidableEq, Repr

/-- ReadState (rule R103). -/
def readState (s : State) : StateReading :=
  { v := s.v, index := s.index, pc := s.pc, sp := s.sp, stack := s.stack, dt := s.dt, st := s.st, key := s.key, fault := s.fault }

/-- Snapshot (rule R105): the whole state. -/
def snapshot (s : State) : State := s

/-- The transactions that may change state (rule R100); the read accessors are the functions above. -/
inductive Transaction where
  | reset
  | loadProgram (b : List Byte)
  | step
  | clearRedraw
  | keyDown (k : Nat)
  | keyUp (k : Nat)
  | restore (t : State)
  deriving DecidableEq, Repr

/-- One transaction of the host (rule R100). Only Step is without a transition while the latch holds a fault (rule R99,
log entry 23) or before the first Reset (rule R264, log entry 20). -/
def transact (x : Transaction) (s : State) : Host.Outcome State Fault Refusal :=
  match x with
  | .reset => .next (hostReset s)
  | .loadProgram b => loadProgram b s
  | .step => step s
  | .clearRedraw => .next (clearRedraw s)
  | .keyDown k => keyEvent k true s
  | .keyUp k => keyEvent k false s
  | .restore t => restore t s

/-- A run: the transactions the host issues, one after another (rule R107); it stops at the first that has no next
state. -/
def transactAll : List Transaction → State → Host.Outcome State Fault Refusal
  | [], s => .next s
  | x :: xs, s =>
    match transact x s with
    | .next t => transactAll xs t
    | .fault k => .fault k
    | .refused r => .refused r

end Sys2Proof.Machine
end

