-- ==== Sys2Proof/Safety.lean ====
section
/-! DEFINITION. The terms that claims are stated in: the named pieces of state and "changes only" (rule R97), the
invariants, a safe state, and which cells a sprite hits. -/

namespace Sys2Proof.Machine

/-- One piece of the state (rule R20), or one of the model's own two fields. -/
inductive Part where
  | byte (a : Nat) | reg (x : Reg) | index | pc | slot (j : Fin 16) | sp | dt | st | redraw
  | pixel (r : Fin 32) (c : Fin 64) | key (k : Fin 16) | fault | draws | wasReset
  deriving DecidableEq, Repr

/-- `t` holds in that piece what `s` holds. -/
def Part.Same (s t : State) : Part → Prop
  | .byte a => t.byte a = s.byte a
  | .reg x => t.reg x = s.reg x
  | .index => t.index = s.index
  | .pc => t.pc = s.pc
  | .slot j => t.stack[j.val] = s.stack[j.val]
  | .sp => t.sp = s.sp
  | .dt => t.dt = s.dt
  | .st => t.st = s.st
  | .redraw => t.redraw = s.redraw
  | .pixel r c => Framebuffer.get t.fb r c = Framebuffer.get s.fb r c
  | .key k => t.keyDown k = s.keyDown k
  | .fault => t.fault = s.fault
  | .draws => t.draws = s.draws
  | .wasReset => t.wasReset = s.wasReset

/-- Every piece of state outside `P` is as it was (rule R97). -/
def ChangesOnly (P : Part → Prop) (s t : State) : Prop := ∀ p, ¬P p → Part.Same s t p

/-- The state is well-formed (rule R39), its memory in canonical form. -/
def State.Inv (s : State) : Prop := s.wf = true

/-- Where pc and the return addresses can be while no fault is latched: pc at most 0xFF + 0xFFF, a saved pc at most
0x1000 (rules R93, R128, decision D13). -/
def State.PcBounded (s : State) : Prop :=
  s.fault = none → s.pc.toNat ≤ 0x10FE ∧ ∀ j : Fin 16, (s.stack[j.val]).toNat ≤ 0x1000

/-- A safe state: no fault is latched (rule R31). A run is safe while all its states are. -/
def State.Running (s : State) : Prop := s.fault = none

/-- The outcome is a next state, and that state has the property. -/
def Completes (o : Host.Outcome State Fault Refusal) (Q : State → Prop) : Prop := ∃ t, o = .next t ∧ Q t

/-- Where the execute phase of an instruction raises a fault, and which (rule R231). -/
def FaultsWhere (s : State) (k : Fault) : Instr → Prop
  | .ret => k = .stackUnderflow ∧ s.sp.val = 0
  | .call _ => k = .stackOverflow ∧ s.sp.val = 16
  | .drawSprite _ _ n => k = .memOutOfRange ∧ 1 ≤ n.toNat ∧ s.index.toNat + n.toNat - 1 > 0xFFF
  | .storeBcd _ => k = .memOutOfRange ∧ s.index.toNat + 2 > 0xFFF
  | .storeRegisters x => k = .memOutOfRange ∧ s.index.toNat + x.toNat > 0xFFF
  | .loadRegisters x => k = .memOutOfRange ∧ s.index.toNat + x.toNat > 0xFFF
  | .skipIfKeyDown x => k = .keyOutOfRange ∧ (s.reg x).toNat > 0xF
  | .skipIfKeyUp x => k = .keyOutOfRange ∧ (s.reg x).toNat > 0xF
  | .clearScreen | .jump _ | .skipEqImm _ _ | .skipNeqImm _ _ | .skipEqReg _ _ | .skipNeqReg _ _ | .loadImm _ _
  | .addImm _ _ | .move _ _ | .orReg _ _ | .andReg _ _ | .xorReg _ _ | .addReg _ _ | .sub _ _ | .shiftRight _ _
  | .subn _ _ | .shiftLeft _ _ | .setIndex _ | .jumpOffset _ | .randomAnd _ _ | .getDelayTimer _ | .waitForKey _
  | .setDelayTimer _ | .setSoundTimer _ | .addToIndex _ | .indexToFontGlyph _ => False

/-- The general registers that an instruction may write (rules R21, R22): its x register as data, VF as a flag by six
instructions, V0 to Vx by load-registers. -/
def writesReg (r : Reg) : Instr → Bool
  | .loadImm x _ | .addImm x _ | .move x _ | .orReg x _ | .andReg x _ | .xorReg x _ | .randomAnd x _
  | .getDelayTimer x | .waitForKey x => r == x
  | .addReg x _ | .sub x _ | .shiftRight x _ | .subn x _ | .shiftLeft x _ => r == x || r == regF
  | .drawSprite _ _ _ => r == regF
  | .loadRegisters x => decide (r.toNat ≤ x.toNat)
  | .clearScreen | .ret | .jump _ | .call _ | .skipEqImm _ _ | .skipNeqImm _ _ | .skipEqReg _ _ | .skipNeqReg _ _
  | .setIndex _ | .jumpOffset _ | .skipIfKeyDown _ | .skipIfKeyUp _ | .setDelayTimer _ | .setSoundTimer _
  | .addToIndex _ | .indexToFontGlyph _ | .storeBcd _ | .storeRegisters _ => false

/-- A sprite of the rows `bytes 0 .. bytes (n − 1)` drawn at (x0, y0) has a bit that is 1 on cell (r, c): the sum over
rows and lanes of rules R192 and R196. -/
def SpriteHits (bytes : Nat → Byte) (n : Nat) (x0 y0 : Nat) (r : Fin 32) (c : Fin 64) : Prop :=
  ∃ i, i < n ∧ ∃ l, l < 8 ∧ (bytes i).getLsbD (7 - l) = true ∧ r.val = (y0 + i) % 32 ∧ c.val = (x0 + l) % 64

end Sys2Proof.Machine
end

