-- ==== Sys2Proof/Certificates/Slice0/Obligations.lean ====
section
/-! DEFINITION. The statements for the provers, from the numbered rules of spec/. In a statement about `exec`, `s` is the
state of the execute phase: its pc is already advanced (rule R93). `Completes o Q` says that the outcome `o` IS a next
state, with the property `Q`. "Log n" is notes/assumptions/n.md; "decision D<n>" is a choice that the spec marks as its
own (92_eei_decisions.md). -/

open Sys2Proof Sys2Proof.Machine

/-! Reset (70_reset_and_hazards.md). -/

/-- R263: after Reset pc = 0x200 and the first fetch reads 0x200 and 0x201. -/
def Obligations.ResetEntersAt0x200 : Prop :=
  State.reset.pc = 0x200#16 ∧
  ∀ s : State, (hostReset s).pc = 0x200#16 ∧
    fetch (hostReset s) = .ok (combineBytes ((hostReset s).byte 0x200) ((hostReset s).byte 0x201))

/-- R36, R37, R260: what Reset leaves in every element, the font area included: it holds the FONT bytes, whose default
values are decision D4 (log 2; every other font: `ResetLoadsFontParameter`). The zeros of memory, V, I, sp, the stack, dt, st and redraw are the
spec's own decision D5 (log 3), the latch decision D11. -/
def Obligations.ResetLeavesBootState : Prop :=
  ∀ s : State, (hostReset s).pc = 0x200#16 ∧
    (∀ a : Nat, a < 0x50 → (hostReset s).byte a = font.getD a 0#8) ∧
    (∀ a : Nat, 0x50 ≤ a → a ≤ 0xFFF → (hostReset s).byte a = 0#8) ∧
    (∀ x : Reg, (hostReset s).reg x = 0#8) ∧ (hostReset s).index = 0#16 ∧ (hostReset s).sp = 0 ∧
    (∀ j : Fin 16, (hostReset s).stack[j.val] = 0#16) ∧ (hostReset s).dt = 0#8 ∧ (hostReset s).st = 0#8 ∧
    (∀ r c, Framebuffer.get (hostReset s).fb r c = 0#8) ∧ (hostReset s).redraw = false ∧
    (∀ k, (hostReset s).keyDown k = s.keyDown k) ∧ (hostReset s).fault = none

/-- R37, R260 for EVERY font of 80 bytes: Reset puts the glyph bytes at 0x000 to 0x04F and zero above; and this
hardware's Reset is the one with the default font (decisions D4, D5; log 2). -/
def Obligations.ResetLoadsFontParameter : Prop :=
  (∀ (glyphs : List Byte) (s : State), glyphs.length = 80 →
    (∀ (a : Nat) (h : a < glyphs.length), (resetWithFont glyphs s).byte a = glyphs[a]) ∧
    (∀ a : Nat, 80 ≤ a → a ≤ 0xFFF → (resetWithFont glyphs s).byte a = 0#8)) ∧
  font.length = 80 ∧ ∀ s : State, hostReset s = resetWithFont font s

/-- R261, R262: Reset keeps every key's level, and resetting twice is resetting once. -/
def Obligations.ResetKeepsKeysAndIsIdempotent : Prop :=
  ∀ s : State, (∀ k, (hostReset s).keyDown k = s.keyDown k) ∧ hostReset (hostReset s) = hostReset s

/-- R39, R36: the reset state meets the invariants that every step keeps, and no fault is latched. -/
def Obligations.ResetMeetsInvariants : Prop :=
  State.reset.Inv ∧ State.reset.PcBounded ∧ State.reset.Running

/-! The step (40_cycle.md). -/

/-- R91, R93, R94, R96: when the word at pc decodes to `i`, a step of a machine that has been reset is `exec i` on the
state whose pc alone has advanced by 2, followed by the timer tick. If `exec i` faults, the step answers the fault entry
as a next state: how the model tells the raise from the entry (log 7, DEDUCED from R232 and decision D11). No instruction
is refused: `InstructionsFaultExactlyWhereListed`. -/
def Obligations.StepRunsDecodedInstruction : Prop :=
  ∀ (s : State) (i : Instr), s.fault = none → s.wasReset = true → s.pc.toNat ≤ 0xFFE →
    decode (combineBytes (s.byte s.pc.toNat) (s.byte (s.pc.toNat + 1))) = .ok i →
    s.advancePc.pc = s.pc + 2#16 ∧ ChangesOnly (fun p => p = .pc) s s.advancePc ∧
    (∀ t, exec i s.advancePc = .next t → step s = .next (timerTick t)) ∧
    (∀ k, exec i s.advancePc = .fault k → step s = .next (enterFault k s))

/-- R95 (decision D3, log 9): on this hardware an unknown word advances pc by 2 and ticks the timers, and changes nothing
else; under the policy Fault it latches UnknownOpcode. -/
def Obligations.UnknownWordOnlyAdvancesAndTicks : Prop :=
  ∀ s : State, s.fault = none → s.wasReset = true → s.pc.toNat ≤ 0xFFE →
    unknownWord (combineBytes (s.byte s.pc.toNat) (s.byte (s.pc.toNat + 1))) = true →
    Completes (step s) (fun t => t.pc = s.pc + 2#16 ∧ t.dt.toNat = s.dt.toNat - 1 ∧ t.st.toNat = s.st.toNat - 1 ∧
      ChangesOnly (fun p => p = .pc ∨ p = .dt ∨ p = .st) s t) ∧
    Completes (stepWith .fault s) (fun t => t.fault = some .unknownOpcode)

/-- R54: the fetched word has the byte at pc as its bits 15..8 and the byte at pc + 1 as its bits 7..0, at every pc up to
0xFFE, odd or even. -/
def Obligations.FetchIsBigEndian : Prop :=
  ∀ s : State, s.pc.toNat ≤ 0xFFE → ∃ w, fetch s = .ok w ∧
    w.extractLsb' 8 8 = s.byte s.pc.toNat ∧ w.extractLsb' 0 8 = s.byte (s.pc.toNat + 1)

/-- R31, R99, R235, R266 (decision D11, log 7): a latched machine has no step, and no transaction but Reset leaves it
unlatched. That this holds of a Restore too is the model's choice beside R105 (log 24). -/
def Obligations.OnlyResetLeavesAFault : Prop :=
  ∀ (s : State) (k : Fault), s.fault = some k →
    step s = .fault k ∧
    (∀ x t, transact x s = .next t → t.fault = none → x = .reset) ∧
    Completes (transact .reset s) (fun t => t.fault = none)

/-- R92, R232 (decisions D8, D11, logs 7, 8, 14): with pc above 0xFFE a step latches FetchOutOfRange; when the execute
phase of the decoded instruction faults, the step latches that fault's kind. The state after it is well-formed and has no
further step; nothing else is said of it. -/
def Obligations.FaultEntryLatchesTheKind : Prop :=
  ∀ s : State, s.fault = none → s.wasReset = true →
    (0xFFE < s.pc.toNat → Completes (step s) (fun t =>
      t.fault = some .fetchOutOfRange ∧ t.Inv ∧ step t = .fault .fetchOutOfRange)) ∧
    (∀ (i : Instr) (k : Fault), s.pc.toNat ≤ 0xFFE →
      decode (combineBytes (s.byte s.pc.toNat) (s.byte (s.pc.toNat + 1))) = .ok i → FaultsWhere s.advancePc k i →
      Completes (step s) (fun t => t.fault = some k ∧ t.Inv ∧ step t = .fault k))

/-- R96, R217: whatever instruction executes, an unknown word and a waiting wait-for-key included, a step that does not
fault decrements dt and st by one, with floor zero; a timer that the step's instruction sets is decremented from the
value set (R215, R216: the spec derives it from R217). That no other instruction writes a timer is the frame rule R97
(decision D20, log 21). -/
def Obligations.TimersTickOnEveryStep : Prop :=
  ∀ (s t : State) (w : Word), step s = .next t → t.fault = none → fetch s = .ok w →
    (∀ x, decode w = .ok (.setDelayTimer x) → t.dt.toNat = (s.reg x).toNat - 1) ∧
    ((∀ x, decode w ≠ .ok (.setDelayTimer x)) → t.dt.toNat = s.dt.toNat - 1) ∧
    (∀ x, decode w = .ok (.setSoundTimer x) → t.st.toNat = (s.reg x).toNat - 1) ∧
    ((∀ x, decode w ≠ .ok (.setSoundTimer x)) → t.st.toNat = s.st.toNat - 1)

/-! Encoding (30_encoding.md). -/

/-- R73, R79 (decisions D1, D2, log 10): decoding an encoded instruction gives it back, every operand at every value. -/
def Obligations.DecodeOfEncode : Prop := ∀ i : Instr, decode (encode i) = .ok i

/-- R73 (decisions D1, PRESUMED, and D2, log 10): a word that decodes to an instruction is that instruction's encoding,
so each instruction has one word. -/
def Obligations.EncodeOfDecode : Prop := ∀ (w : Word) (i : Instr), decode w = .ok i → encode i = w

/-- R74, R75 (decision D2, log 10): the decoder rejects exactly the unknown words of the table of rule R75. -/
def Obligations.DecodeRejectsExactlyUnknownWords : Prop :=
  ∀ w : Word, decode w = .error (.unknownWord w) ↔ unknownWord w = true

/-- R71, R79 (decisions D1, D2, log 10): the decode function row by row, each operand read from its bits of the word. -/
def Obligations.DecodeReadsTheFields : Prop :=
  ∀ w : Word,
    (w = 0x00E0#16 → decode w = .ok .clearScreen) ∧
    (w = 0x00EE#16 → decode w = .ok .ret) ∧
    (w.extractLsb' 12 4 = 0x1#4 → decode w = .ok (.jump (w.extractLsb' 0 12))) ∧
    (w.extractLsb' 12 4 = 0x2#4 → decode w = .ok (.call (w.extractLsb' 0 12))) ∧
    (w.extractLsb' 12 4 = 0x3#4 → decode w = .ok (.skipEqImm (w.extractLsb' 8 4) (w.extractLsb' 0 8))) ∧
    (w.extractLsb' 12 4 = 0x4#4 → decode w = .ok (.skipNeqImm (w.extractLsb' 8 4) (w.extractLsb' 0 8))) ∧
    (w.extractLsb' 12 4 = 0x5#4 → w.extractLsb' 0 4 = 0x0#4 →
      decode w = .ok (.skipEqReg (w.extractLsb' 8 4) (w.extractLsb' 4 4))) ∧
    (w.extractLsb' 12 4 = 0x6#4 → decode w = .ok (.loadImm (w.extractLsb' 8 4) (w.extractLsb' 0 8))) ∧
    (w.extractLsb' 12 4 = 0x7#4 → decode w = .ok (.addImm (w.extractLsb' 8 4) (w.extractLsb' 0 8))) ∧
    (w.extractLsb' 12 4 = 0x8#4 →
      (w.extractLsb' 0 4 = 0x0#4 → decode w = .ok (.move (w.extractLsb' 8 4) (w.extractLsb' 4 4))) ∧
      (w.extractLsb' 0 4 = 0x1#4 → decode w = .ok (.orReg (w.extractLsb' 8 4) (w.extractLsb' 4 4))) ∧
      (w.extractLsb' 0 4 = 0x2#4 → decode w = .ok (.andReg (w.extractLsb' 8 4) (w.extractLsb' 4 4))) ∧
      (w.extractLsb' 0 4 = 0x3#4 → decode w = .ok (.xorReg (w.extractLsb' 8 4) (w.extractLsb' 4 4))) ∧
      (w.extractLsb' 0 4 = 0x4#4 → decode w = .ok (.addReg (w.extractLsb' 8 4) (w.extractLsb' 4 4))) ∧
      (w.extractLsb' 0 4 = 0x5#4 → decode w = .ok (.sub (w.extractLsb' 8 4) (w.extractLsb' 4 4))) ∧
      (w.extractLsb' 0 4 = 0x6#4 → decode w = .ok (.shiftRight (w.extractLsb' 8 4) (w.extractLsb' 4 4))) ∧
      (w.extractLsb' 0 4 = 0x7#4 → decode w = .ok (.subn (w.extractLsb' 8 4) (w.extractLsb' 4 4))) ∧
      (w.extractLsb' 0 4 = 0xE#4 → decode w = .ok (.shiftLeft (w.extractLsb' 8 4) (w.extractLsb' 4 4)))) ∧
    (w.extractLsb' 12 4 = 0x9#4 → w.extractLsb' 0 4 = 0x0#4 →
      decode w = .ok (.skipNeqReg (w.extractLsb' 8 4) (w.extractLsb' 4 4))) ∧
    (w.extractLsb' 12 4 = 0xA#4 → decode w = .ok (.setIndex (w.extractLsb' 0 12))) ∧
    (w.extractLsb' 12 4 = 0xB#4 → decode w = .ok (.jumpOffset (w.extractLsb' 0 12))) ∧
    (w.extractLsb' 12 4 = 0xC#4 → decode w = .ok (.randomAnd (w.extractLsb' 8 4) (w.extractLsb' 0 8))) ∧
    (w.extractLsb' 12 4 = 0xD#4 →
      decode w = .ok (.drawSprite (w.extractLsb' 8 4) (w.extractLsb' 4 4) (w.extractLsb' 0 4))) ∧
    (w.extractLsb' 12 4 = 0xE#4 →
      (w.extractLsb' 0 8 = 0x9E#8 → decode w = .ok (.skipIfKeyDown (w.extractLsb' 8 4))) ∧
      (w.extractLsb' 0 8 = 0xA1#8 → decode w = .ok (.skipIfKeyUp (w.extractLsb' 8 4)))) ∧
    (w.extractLsb' 12 4 = 0xF#4 →
      (w.extractLsb' 0 8 = 0x07#8 → decode w = .ok (.getDelayTimer (w.extractLsb' 8 4))) ∧
      (w.extractLsb' 0 8 = 0x0A#8 → decode w = .ok (.waitForKey (w.extractLsb' 8 4))) ∧
      (w.extractLsb' 0 8 = 0x15#8 → decode w = .ok (.setDelayTimer (w.extractLsb' 8 4))) ∧
      (w.extractLsb' 0 8 = 0x18#8 → decode w = .ok (.setSoundTimer (w.extractLsb' 8 4))) ∧
      (w.extractLsb' 0 8 = 0x1E#8 → decode w = .ok (.addToIndex (w.extractLsb' 8 4))) ∧
      (w.extractLsb' 0 8 = 0x29#8 → decode w = .ok (.indexToFontGlyph (w.extractLsb' 8 4))) ∧
      (w.extractLsb' 0 8 = 0x33#8 → decode w = .ok (.storeBcd (w.extractLsb' 8 4))) ∧
      (w.extractLsb' 0 8 = 0x55#8 → decode w = .ok (.storeRegisters (w.extractLsb' 8 4))) ∧
      (w.extractLsb' 0 8 = 0x65#8 → decode w = .ok (.loadRegisters (w.extractLsb' 8 4))))

/-- Words of 95_test_vectors.md and of the rules' examples, one of each family, decode to the instruction they stand
for (decision D1, log 10); 0x5121 is rejected, because every printed digit is compared (decision D2, log 10). -/
def Obligations.ExampleWordsDecode : Prop :=
  decode 0x00E0#16 = .ok .clearScreen ∧ decode 0x2300#16 = .ok (.call 0x300#12) ∧
  decode 0x3312#16 = .ok (.skipEqImm 0x3#4 0x12#8) ∧ decode 0x82AE#16 = .ok (.shiftLeft 0x2#4 0xA#4) ∧
  decode 0xA2F0#16 = .ok (.setIndex 0x2F0#12) ∧ decode 0xD125#16 = .ok (.drawSprite 0x1#4 0x2#4 0x5#4) ∧
  decode 0xE19E#16 = .ok (.skipIfKeyDown 0x1#4) ∧ decode 0xF265#16 = .ok (.loadRegisters 0x2#4) ∧
  decode 0x5121#16 = .error (.unknownWord 0x5121#16)

/-! Register arithmetic and logic (42_alu.md). -/

/-- R141, R143: load-imm puts kk, move puts V[y] into V[x]; VF is not written as a flag. -/
def Obligations.LoadImmAndMoveWriteTheOperand : Prop :=
  ∀ (s : State) (x y : Reg) (kk : Byte),
    Completes (exec (.loadImm x kk) s) (fun t => t.reg x = kk ∧ (x ≠ regF → t.reg regF = s.reg regF)) ∧
    Completes (exec (.move x y) s) (fun t => t.reg x = s.reg y ∧ (x ≠ regF → t.reg regF = s.reg regF))

/-- R142: add-imm wraps modulo 256 and writes no flag; with x = 0xF, VF is the sum. -/
def Obligations.AddImmWrapsWithoutFlag : Prop :=
  ∀ (s : State) (x : Reg) (kk : Byte),
    Completes (exec (.addImm x kk) s) (fun t => (t.reg x).toNat = ((s.reg x).toNat + kk.toNat) % 256 ∧
      (x ≠ regF → t.reg regF = s.reg regF))

/-- R144, R145, R146: each bit of V[x] becomes the or, the and, the xor of the two bits; VF is not written as a flag
(decision D20, log 21). -/
def Obligations.BitwiseOpsActBitByBit : Prop :=
  ∀ (s : State) (x y : Reg),
    Completes (exec (.orReg x y) s) (fun t =>
      (∀ b, b < 8 → (t.reg x).getLsbD b = ((s.reg x).getLsbD b || (s.reg y).getLsbD b)) ∧
      (x ≠ regF → t.reg regF = s.reg regF)) ∧
    Completes (exec (.andReg x y) s) (fun t =>
      (∀ b, b < 8 → (t.reg x).getLsbD b = ((s.reg x).getLsbD b && (s.reg y).getLsbD b)) ∧
      (x ≠ regF → t.reg regF = s.reg regF)) ∧
    Completes (exec (.xorReg x y) s) (fun t =>
      (∀ b, b < 8 → (t.reg x).getLsbD b = ((s.reg x).getLsbD b ^^ (s.reg y).getLsbD b)) ∧
      (x ≠ regF → t.reg regF = s.reg regF))

/-- R147: the sum modulo 256 and VF = 1 exactly on carry, both from the starting values. That VF holds the flag when
x = 0xF is decision D12 (log 11). -/
def Obligations.AddRegSumAndCarry : Prop :=
  ∀ (s : State) (x y : Reg),
    Completes (exec (.addReg x y) s) (fun t =>
      (x ≠ regF → (t.reg x).toNat = ((s.reg x).toNat + (s.reg y).toNat) % 256) ∧
      t.reg regF = (if (s.reg x).toNat + (s.reg y).toNat > 255 then 1#8 else 0#8))

/-- R148, R150: the difference modulo 256 (x − y, y − x) and VF = 1 exactly if no borrow occurs. That VF holds the flag
when x = 0xF is decision D12 (log 11). -/
def Obligations.SubAndSubnDifferenceAndNoBorrow : Prop :=
  ∀ (s : State) (x y : Reg),
    Completes (exec (.sub x y) s) (fun t =>
      (x ≠ regF → (t.reg x).toNat = ((s.reg x).toNat + 256 - (s.reg y).toNat) % 256) ∧
      t.reg regF = (if (s.reg x).toNat ≥ (s.reg y).toNat then 1#8 else 0#8)) ∧
    Completes (exec (.subn x y) s) (fun t =>
      (x ≠ regF → (t.reg x).toNat = ((s.reg y).toNat + 256 - (s.reg x).toNat) % 256) ∧
      t.reg regF = (if (s.reg y).toNat ≥ (s.reg x).toNat then 1#8 else 0#8))

/-- R149: VF takes the low bit, V[x] is halved; with x = 0xF, VF ends 0 (90_conflicts.md C4, rule R9; log 12). No value of
y matters (decision D20). -/
def Obligations.ShiftRightShiftsOutTheLowBit : Prop :=
  ∀ (s : State) (x y : Reg),
    Completes (exec (.shiftRight x y) s) (fun t =>
      (x ≠ regF → (t.reg x).toNat = (s.reg x).toNat / 2 ∧ (t.reg regF).toNat = (s.reg x).toNat % 2) ∧
      (x = regF → t.reg regF = 0#8))

/-- R151: VF takes the high bit as 0x80 or 0x00, V[x] is doubled modulo 256; with x = 0xF, VF ends 0. That the shift is
one bit left is the spec's own inference in rule R151 (log 12). -/
def Obligations.ShiftLeftShiftsOutTheHighBit : Prop :=
  ∀ (s : State) (x y : Reg),
    Completes (exec (.shiftLeft x y) s) (fun t =>
      (x ≠ regF → (t.reg x).toNat = (s.reg x).toNat * 2 % 256 ∧
        t.reg regF = (if (s.reg x).toNat ≥ 128 then 0x80#8 else 0x00#8)) ∧
      (x = regF → t.reg regF = 0#8))

/-- R152 (decision D15, log 5): V[x] becomes the step's random byte, a free value, masked with kk; so every bit that kk
clears is 0, kk = 0 gives 0 and kk = 0xFF gives the random byte itself. -/
def Obligations.RandomAndMasksAFreeByte : Prop :=
  ∀ (s : State) (x : Reg) (kk : Byte),
    Completes (exec (.randomAnd x kk) s) (fun t =>
      (∀ b, b < 8 → (t.reg x).getLsbD b = ((Config.randomByte s.draws).getLsbD b && kk.getLsbD b)) ∧
      (kk = 0#8 → t.reg x = 0#8) ∧ (kk = 0xFF#8 → t.reg x = Config.randomByte s.draws) ∧ t.draws = s.draws + 1)

/-! Control transfer (41_control_flow.md). -/

/-- R122, R128: jump sets pc to nnn, jump-offset to V0 + nnn, a sum that does not wrap (the spec's derivation in R128); VF
and every other general register are as they were (frame rule R97, decision D20, log 21). -/
def Obligations.JumpsSetThePc : Prop :=
  ∀ (s : State) (nnn : Addr12),
    Completes (exec (.jump nnn) s) (fun t => t.pc.toNat = nnn.toNat ∧ ∀ r, t.reg r = s.reg r) ∧
    Completes (exec (.jumpOffset nnn) s) (fun t =>
      t.pc.toNat = (s.reg 0x0#4).toNat + nnn.toNat ∧ ∀ r, t.reg r = s.reg r)

/-- R123 (the fault's kind is decision D9, log 16): call writes the advanced pc into slot sp, increments sp and jumps;
with 16 slots occupied it raises StackOverflow. -/
def Obligations.CallPushesTheReturnAddress : Prop :=
  ∀ (s : State) (nnn : Addr12),
    (∀ h : s.sp.val < 16, Completes (exec (.call nnn) s) (fun t =>
      t.stack[s.sp.val] = s.pc ∧ t.sp.val = s.sp.val + 1 ∧ t.pc.toNat = nnn.toNat)) ∧
    (s.sp.val = 16 → exec (.call nnn) s = .fault .stackOverflow)

/-- R121, R25 (the fault's kind is decision D9, log 16): return decrements sp and sets pc to the slot it uncovers, which
keeps its value as every slot does (decision D20, log 21); with no slot occupied it raises StackUnderflow. -/
def Obligations.ReturnPopsTheReturnAddress : Prop :=
  ∀ s : State,
    (∀ h : 0 < s.sp.val, Completes (exec .ret s) (fun t =>
      t.sp.val = s.sp.val - 1 ∧ t.pc = s.stack[s.sp.val - 1] ∧ t.stack = s.stack)) ∧
    (s.sp.val = 0 → exec .ret s = .fault .stackUnderflow)

/-- 95_test_vectors.md L1-7, R121, R123: after a call, a return from any state with the same stack and sp goes back to
the instruction after the call and frees the slot. -/
def Obligations.ReturnUndoesCall : Prop :=
  ∀ (s t u : State) (nnn : Addr12), exec (.call nnn) s = .next t → u.stack = t.stack → u.sp = t.sp →
    Completes (exec .ret u) (fun r => r.pc = s.pc ∧ r.sp = s.sp)

/-- R124, R125, R126, R127: each skip adds 2 to the advanced pc exactly if its comparison holds, modulo 2^16 (decision
D13, log 15), and writes no general register (frame rule R97, decision D20, log 21). -/
def Obligations.SkipsAddTwoOnTheirCondition : Prop :=
  ∀ (s : State) (x y : Reg) (kk : Byte),
    Completes (exec (.skipEqImm x kk) s) (fun t =>
      t.pc = (if s.reg x = kk then s.pc + 2#16 else s.pc) ∧ ∀ r, t.reg r = s.reg r) ∧
    Completes (exec (.skipNeqImm x kk) s) (fun t =>
      t.pc = (if s.reg x ≠ kk then s.pc + 2#16 else s.pc) ∧ ∀ r, t.reg r = s.reg r) ∧
    Completes (exec (.skipEqReg x y) s) (fun t =>
      t.pc = (if s.reg x = s.reg y then s.pc + 2#16 else s.pc) ∧ ∀ r, t.reg r = s.reg r) ∧
    Completes (exec (.skipNeqReg x y) s) (fun t =>
      t.pc = (if s.reg x ≠ s.reg y then s.pc + 2#16 else s.pc) ∧ ∀ r, t.reg r = s.reg r)

/-! Index register and memory (43_index_memory.md, 20_memory.md). -/

/-- R170, R172: set-index puts nnn, index-to-font-glyph puts 5 · V[x], not masked, into I; VF is not written. -/
def Obligations.SetIndexAndFontGlyph : Prop :=
  ∀ (s : State) (x : Reg) (nnn : Addr12),
    Completes (exec (.setIndex nnn) s) (fun t => t.index.toNat = nnn.toNat ∧ t.reg regF = s.reg regF) ∧
    Completes (exec (.indexToFontGlyph x) s) (fun t =>
      t.index.toNat = (s.reg x).toNat * 5 ∧ t.reg regF = s.reg regF)

/-- R171 (the wrap is decision D14, log 15): add-to-index adds V[x] modulo 2^16 and writes no flag. -/
def Obligations.AddToIndexWrapsAt16Bits : Prop :=
  ∀ (s : State) (x : Reg),
    Completes (exec (.addToIndex x) s) (fun t =>
      t.index.toNat = (s.index.toNat + (s.reg x).toNat) % 65536 ∧ t.reg regF = s.reg regF)

/-- R53 (decision D7, log 14): above 0xFFF both memory primitives raise MemOutOfRange; at 0xFFF and below a write makes
that byte read as written, changes no other piece of state, and keeps the state well-formed. -/
def Obligations.MemoryPrimitives : Prop :=
  ∀ (s : State) (a : Nat) (w : Byte),
    (0xFFF < a → memRead s a = .error .memOutOfRange ∧ memWrite s a w = .error .memOutOfRange) ∧
    (a ≤ 0xFFF → memRead s a = .ok (s.byte a) ∧ ∃ t, memWrite s a w = .ok t ∧ t.byte a = w ∧
      ChangesOnly (fun p => p = .byte a) s t ∧ (s.Inv → t.Inv))

/-- R173: store-bcd writes hundreds, tens and units of V[x] at I, I + 1, I + 2, and keeps I; it raises MemOutOfRange
if I > 0xFFD (decision D7, log 14). -/
def Obligations.StoreBcdWritesThreeDigits : Prop :=
  ∀ (s : State) (x : Reg),
    (s.index.toNat ≤ 0xFFD → Completes (exec (.storeBcd x) s) (fun t =>
      (t.byte s.index.toNat).toNat = (s.reg x).toNat / 100 ∧
      (t.byte (s.index.toNat + 1)).toNat = (s.reg x).toNat / 10 % 10 ∧
      (t.byte (s.index.toNat + 2)).toNat = (s.reg x).toNat % 10 ∧ t.index = s.index)) ∧
    (0xFFD < s.index.toNat → exec (.storeBcd x) s = .fault .memOutOfRange)

/-- R174: store-registers copies V0 to Vx to I .. I + x, and keeps I (decision D20, log 21); it raises MemOutOfRange
if I + x > 0xFFF (decision D7, log 14). -/
def Obligations.StoreRegistersCopiesToMemory : Prop :=
  ∀ (s : State) (x : Reg),
    (s.index.toNat + x.toNat ≤ 0xFFF → Completes (exec (.storeRegisters x) s) (fun t =>
      (∀ j : Reg, j.toNat ≤ x.toNat → t.byte (s.index.toNat + j.toNat) = s.reg j) ∧ t.index = s.index)) ∧
    (0xFFF < s.index.toNat + x.toNat → exec (.storeRegisters x) s = .fault .memOutOfRange)

/-- R175: load-registers copies I .. I + x to V0 to Vx, keeps the registers above x, and keeps I (decision D20, log 21);
it raises MemOutOfRange if I + x > 0xFFF (decision D7, log 14). -/
def Obligations.LoadRegistersCopiesFromMemory : Prop :=
  ∀ (s : State) (x : Reg),
    (s.index.toNat + x.toNat ≤ 0xFFF → Completes (exec (.loadRegisters x) s) (fun t =>
      (∀ j : Reg, j.toNat ≤ x.toNat → t.reg j = s.byte (s.index.toNat + j.toNat)) ∧
      (∀ j : Reg, x.toNat < j.toNat → t.reg j = s.reg j) ∧ t.index = s.index)) ∧
    (0xFFF < s.index.toNat + x.toNat → exec (.loadRegisters x) s = .fault .memOutOfRange)

/-- R64, R54: a word that store-registers has written is the word that the next fetch from there reads. -/
def Obligations.StoredBytesAreFetched : Prop :=
  ∀ (s t : State) (x : Reg), 1 ≤ x.toNat → exec (.storeRegisters x) s = .next t →
    fetch (t.setPc s.index) = .ok (combineBytes (s.reg 0x0#4) (s.reg 0x1#4))

/-! Display (44_display.md). -/

/-- R194, R191: clear-screen makes every cell 0 and sets redraw; VF is not written. -/
def Obligations.ClearScreenClearsEveryCell : Prop :=
  ∀ s : State, Completes (exec .clearScreen s) (fun t =>
    (∀ r c, Framebuffer.get t.fb r c = 0#8) ∧ t.redraw = true ∧ t.reg regF = s.reg regF)

/-- R195, R192, R193, R196 (no wrap of the sprite's addresses: decision D7; a 0 bit never collides: 90_conflicts.md C3,
log 13; coordinates from the starting registers): exactly the cells that a 1 bit of the sprite lands on are XORed with 1,
VF = 1 exactly if such a cell was 1, redraw is set; MemOutOfRange if n ≥ 1 and I + n − 1 > 0xFFF. -/
def Obligations.DrawSpriteXorsAndCollides : Prop :=
  ∀ (s : State) (x y : Reg) (n : Nibble),
    (n.toNat = 0 ∨ s.index.toNat + n.toNat ≤ 0x1000 → Completes (exec (.drawSprite x y n) s) (fun t =>
      (∀ r c, SpriteHits (fun i => s.byte (s.index.toNat + i)) n.toNat (s.reg x).toNat (s.reg y).toNat r c →
        Framebuffer.get t.fb r c = Framebuffer.get s.fb r c ^^^ 1#8) ∧
      (∀ r c, ¬SpriteHits (fun i => s.byte (s.index.toNat + i)) n.toNat (s.reg x).toNat (s.reg y).toNat r c →
        Framebuffer.get t.fb r c = Framebuffer.get s.fb r c) ∧
      (t.reg regF = 1#8 ∨ t.reg regF = 0#8) ∧
      (t.reg regF = 1#8 ↔ ∃ r c, SpriteHits (fun i => s.byte (s.index.toNat + i)) n.toNat (s.reg x).toNat
        (s.reg y).toNat r c ∧ Framebuffer.get s.fb r c = 1#8) ∧
      t.redraw = true)) ∧
    (1 ≤ n.toNat → 0xFFF < s.index.toNat + n.toNat - 1 → exec (.drawSprite x y n) s = .fault .memOutOfRange)

/-- 95_test_vectors.md L1-4, R192: drawing the same sprite a second time at the same place (neither coordinate in VF)
restores the framebuffer, and the second draw collides if some 1 bit of the sprite lands on a cell that was 0. -/
def Obligations.DrawingTwiceRestoresTheDisplay : Prop :=
  ∀ (s t : State) (x y : Reg) (n : Nibble), x ≠ regF → y ≠ regF → exec (.drawSprite x y n) s = .next t →
    Completes (exec (.drawSprite x y n) t) (fun u => u.fb = s.fb ∧
      ((∃ r c, SpriteHits (fun i => s.byte (s.index.toNat + i)) n.toNat (s.reg x).toNat (s.reg y).toNat r c ∧
        Framebuffer.get s.fb r c = 0#8) → u.reg regF = 1#8))

/-! Keypad and timers (45_keypad_timers.md). -/

/-- R211, R212 (the fault is decision D10, log 16): with V[x] ≤ 0xF the pc skips exactly if key V[x] is down (up); with
V[x] > 0xF KeyOutOfRange is raised. -/
def Obligations.KeySkipsSampleTheKey : Prop :=
  ∀ (s : State) (x : Reg),
    (∀ h : (s.reg x).toNat < 16,
      Completes (exec (.skipIfKeyDown x) s) (fun t =>
        t.pc = if s.keyDown ⟨(s.reg x).toNat, h⟩ = true then s.pc + 2#16 else s.pc) ∧
      Completes (exec (.skipIfKeyUp x) s) (fun t =>
        t.pc = if s.keyDown ⟨(s.reg x).toNat, h⟩ = false then s.pc + 2#16 else s.pc)) ∧
    (0xF < (s.reg x).toNat → exec (.skipIfKeyDown x) s = .fault .keyOutOfRange ∧
      exec (.skipIfKeyUp x) s = .fault .keyOutOfRange)

/-- R214: with no key pressed pc goes back by 2, modulo 2^16 (decision D13, log 15), and every general register is as it was
(frame rule R97, decision D20, log 21); else V[x] is the lowest pressed key and pc stays advanced. -/
def Obligations.WaitForKeyTakesTheLowestKey : Prop :=
  ∀ (s : State) (x : Reg),
    ((∀ k, s.keyDown k = false) → Completes (exec (.waitForKey x) s) (fun t =>
      t.pc = s.pc - 2#16 ∧ ∀ r, t.reg r = s.reg r)) ∧
    (∀ k : Fin 16, s.keyDown k = true → (∀ j : Fin 16, j < k → s.keyDown j = false) →
      Completes (exec (.waitForKey x) s) (fun t => (t.reg x).toNat = k.val ∧ t.pc = s.pc))

/-- R214, R96 over a whole step: while no key is pressed, wait-for-key leaves pc at its own address and every other piece
of state as it was (frame rule R97, decision D20, log 21), but the timers tick. -/
def Obligations.WaitForKeyStepPolls : Prop :=
  ∀ (s : State) (x : Reg), s.fault = none → s.wasReset = true → s.pc.toNat ≤ 0xFFE →
    decode (combineBytes (s.byte s.pc.toNat) (s.byte (s.pc.toNat + 1))) = .ok (.waitForKey x) →
    (∀ k, s.keyDown k = false) →
    Completes (step s) (fun t => t.dt.toNat = s.dt.toNat - 1 ∧ t.st.toNat = s.st.toNat - 1 ∧
      ChangesOnly (fun p => p = .dt ∨ p = .st) s t)

/-- R213, R215, R216, the execute phase: V[x] takes dt, dt and st take V[x]. -/
def Obligations.TimerTransfers : Prop :=
  ∀ (s : State) (x : Reg),
    Completes (exec (.getDelayTimer x) s) (fun t => t.reg x = s.dt) ∧
    Completes (exec (.setDelayTimer x) s) (fun t => t.dt = s.reg x) ∧
    Completes (exec (.setSoundTimer x) s) (fun t => t.st = s.reg x)

/-! Frames (rule R97, decision D20, log 21): what an instruction leaves unchanged. -/

/-- Changes V[x] only: load-imm, add-imm, move, or, and, xor, get-delay-timer; random-and also the model's counter of
free values. -/
def Obligations.RegisterInstructionsFrame : Prop :=
  ∀ (s t : State) (x y : Reg) (kk : Byte),
    (exec (.loadImm x kk) s = .next t ∨ exec (.addImm x kk) s = .next t ∨ exec (.move x y) s = .next t ∨
      exec (.orReg x y) s = .next t ∨ exec (.andReg x y) s = .next t ∨ exec (.xorReg x y) s = .next t ∨
      exec (.getDelayTimer x) s = .next t → ChangesOnly (fun p => p = .reg x) s t) ∧
    (exec (.randomAnd x kk) s = .next t → ChangesOnly (fun p => p = .reg x ∨ p = .draws) s t)

/-- Changes V[x] and VF only: add-reg, sub, subn, shift-right, shift-left. -/
def Obligations.FlagInstructionsFrame : Prop :=
  ∀ (s t : State) (x y : Reg),
    exec (.addReg x y) s = .next t ∨ exec (.sub x y) s = .next t ∨ exec (.subn x y) s = .next t ∨
      exec (.shiftRight x y) s = .next t ∨ exec (.shiftLeft x y) s = .next t →
    ChangesOnly (fun p => p = .reg x ∨ p = .reg regF) s t

/-- Changes pc only: jump, jump-offset, the four comparing skips, the two key skips, and wait-for-key with no key
pressed; with a key pressed wait-for-key changes V[x] only. -/
def Obligations.PcInstructionsFrame : Prop :=
  ∀ (s t : State) (x y : Reg) (kk : Byte) (nnn : Addr12),
    (exec (.jump nnn) s = .next t ∨ exec (.jumpOffset nnn) s = .next t ∨ exec (.skipEqImm x kk) s = .next t ∨
      exec (.skipNeqImm x kk) s = .next t ∨ exec (.skipEqReg x y) s = .next t ∨ exec (.skipNeqReg x y) s = .next t ∨
      exec (.skipIfKeyDown x) s = .next t ∨ exec (.skipIfKeyUp x) s = .next t → ChangesOnly (fun p => p = .pc) s t) ∧
    (exec (.waitForKey x) s = .next t → (∀ k, s.keyDown k = false) → ChangesOnly (fun p => p = .pc) s t) ∧
    (exec (.waitForKey x) s = .next t → (∃ k, s.keyDown k = true) → ChangesOnly (fun p => p = .reg x) s t)

/-- Call changes pc, sp and the slot that sp named; return changes pc and sp. -/
def Obligations.StackInstructionsFrame : Prop :=
  ∀ (s t : State) (nnn : Addr12),
    (exec (.call nnn) s = .next t →
      ChangesOnly (fun p => p = .pc ∨ p = .sp ∨ ∃ j : Fin 16, j.val = s.sp.val ∧ p = .slot j) s t) ∧
    (exec .ret s = .next t → ChangesOnly (fun p => p = .pc ∨ p = .sp) s t)

/-- Set-index, add-to-index and index-to-font-glyph change I only; set-delay-timer dt only; set-sound-timer st only. -/
def Obligations.IndexAndTimerInstructionsFrame : Prop :=
  ∀ (s t : State) (x : Reg) (nnn : Addr12),
    (exec (.setIndex nnn) s = .next t ∨ exec (.addToIndex x) s = .next t ∨ exec (.indexToFontGlyph x) s = .next t →
      ChangesOnly (fun p => p = .index) s t) ∧
    (exec (.setDelayTimer x) s = .next t → ChangesOnly (fun p => p = .dt) s t) ∧
    (exec (.setSoundTimer x) s = .next t → ChangesOnly (fun p => p = .st) s t)

/-- Store-bcd changes the three bytes from the address of I only, store-registers the x + 1 bytes from there only;
load-registers changes V0 to Vx only. -/
def Obligations.TransferInstructionsFrame : Prop :=
  ∀ (s t : State) (x : Reg),
    (exec (.storeBcd x) s = .next t →
      ChangesOnly (fun p => ∃ a, indexAddr s ≤ a ∧ a < indexAddr s + 3 ∧ p = .byte a) s t) ∧
    (exec (.storeRegisters x) s = .next t →
      ChangesOnly (fun p => ∃ a, indexAddr s ≤ a ∧ a < indexAddr s + (x.toNat + 1) ∧ p = .byte a) s t) ∧
    (exec (.loadRegisters x) s = .next t →
      ChangesOnly (fun p => ∃ j : Reg, j.toNat ≤ x.toNat ∧ p = .reg j) s t)

/-- Clear-screen changes framebuffer cells and redraw only; draw-sprite changes VF and redraw, and of the cells only
those that a 1 bit of the sprite lands on. -/
def Obligations.DisplayInstructionsFrame : Prop :=
  ∀ (s t : State) (x y : Reg) (n : Nibble),
    (exec .clearScreen s = .next t → ChangesOnly (fun p => p = .redraw ∨ ∃ r c, p = .pixel r c) s t) ∧
    (exec (.drawSprite x y n) s = .next t → ChangesOnly (fun p => p = .redraw ∨ p = .reg regF ∨
      ∃ r c, SpriteHits (fun i => s.byte (indexAddr s + i)) n.toNat (s.reg x).toNat (s.reg y).toNat r c ∧
        p = .pixel r c) s t)

/-! The whole machine. -/

/-- R231 (decisions D7, D9, D10): the execute phase of an instruction faults exactly where rule R231 says and with that
kind, no other instruction faults, and none is refused. -/
def Obligations.InstructionsFaultExactlyWhereListed : Prop :=
  ∀ (s : State) (i : Instr), (∀ k, exec i s = .fault k ↔ FaultsWhere s k i) ∧ (∀ r, exec i s ≠ .refused r)

/-- R21, R22 and the frame rule R97 (decision D20, log 21): over all instructions, a general register changes only if the
instruction names it as destination, or it is VF and the instruction is one of the six that define a flag. -/
def Obligations.OnlyNamedRegistersChange : Prop :=
  ∀ (s t : State) (i : Instr) (r : Reg), exec i s = .next t → writesReg r i = false → t.reg r = s.reg r

/-- R35, R56, R29, R30 and the frame rule R97 (decision D20, log 21) over all instructions: who writes I,
sp, the stack, dt, st, redraw, the framebuffer and memory; no instruction writes the keypad, the latch or the
model's record that Reset was issued. -/
def Obligations.SpecialStateHasOnlyItsWriters : Prop :=
  ∀ (s t : State) (i : Instr), exec i s = .next t →
    (t.index ≠ s.index → (∃ nnn, i = .setIndex nnn) ∨ (∃ x, i = .addToIndex x) ∨ ∃ x, i = .indexToFontGlyph x) ∧
    (t.sp ≠ s.sp → i = .ret ∨ ∃ nnn, i = .call nnn) ∧
    (t.stack ≠ s.stack → ∃ nnn, i = .call nnn) ∧
    (t.dt ≠ s.dt → ∃ x, i = .setDelayTimer x) ∧
    (t.st ≠ s.st → ∃ x, i = .setSoundTimer x) ∧
    (t.redraw ≠ s.redraw ∨ t.fb ≠ s.fb → i = .clearScreen ∨ ∃ x y n, i = .drawSprite x y n) ∧
    ((∃ a, t.byte a ≠ s.byte a) → (∃ x, i = .storeBcd x) ∨ ∃ x, i = .storeRegisters x) ∧
    t.key = s.key ∧ t.fault = s.fault ∧ t.wasReset = s.wasReset

/-- R39: every step keeps the state well-formed: each framebuffer cell 0 or 1, memory in its canonical form. For a step
that faults this rests on the model's choice that the unspecified values after a fault are well-formed (log 8, beside
R232's "any value"). -/
def Obligations.StepKeepsWellFormedness : Prop := ∀ s t : State, s.Inv → step s = .next t → t.Inv

/-- Decision D13, R93, R128: every step keeps pc at most 0x10FE and every saved pc at most 0x1000 while no fault is
latched, so the 16-bit pc arithmetic never wraps. -/
def Obligations.StepKeepsPcBounded : Prop := ∀ s t : State, s.PcBounded → step s = .next t → t.PcBounded

/-! The host's transactions (40_cycle.md). -/

/-- R101 (decision D17, log 17): LoadProgram puts byte j at 0x200 + j and changes nothing else; more than 3584 bytes are
refused. -/
def Obligations.LoadProgramPlacesTheBytes : Prop :=
  ∀ (b : List Byte) (s : State),
    (b.length ≤ 0xE00 → Completes (transact (.loadProgram b) s) (fun t =>
      (∀ (j : Nat) (h : j < b.length), t.byte (0x200 + j) = b[j]) ∧
      ChangesOnly (fun p => ∃ a, 0x200 ≤ a ∧ a < 0x200 + b.length ∧ p = .byte a) s t ∧ (s.Inv → t.Inv))) ∧
    (0xE00 < b.length → transact (.loadProgram b) s = .refused .programTooLong)

/-- R102 (the refusal is decision D22, log 17): KeyDown makes the key's level true, KeyUp false, and nothing else
changes (read from the rule's one assignment, log 17); a key above 15 is refused. -/
def Obligations.KeyEventsSetTheLevel : Prop :=
  ∀ (k : Nat) (s : State),
    (∀ h : k < 16,
      Completes (transact (.keyDown k) s) (fun t =>
        t.keyDown ⟨k, h⟩ = true ∧ ChangesOnly (fun p => p = .key ⟨k, h⟩) s t) ∧
      Completes (transact (.keyUp k) s) (fun t =>
        t.keyDown ⟨k, h⟩ = false ∧ ChangesOnly (fun p => p = .key ⟨k, h⟩) s t)) ∧
    (15 < k → transact (.keyDown k) s = .refused .noSuchKey ∧ transact (.keyUp k) s = .refused .noSuchKey)

/-- R104: ClearRedraw makes redraw false and changes nothing else (read from the rule's one assignment, log 17); and it and
Reset are the only transactions after which a redraw that was true is false with no fault, Restore apart: that Restore
replaces redraw too is R105 and the model's choice beside R104 (log 24). -/
def Obligations.ClearRedrawClearsOnlyRedraw : Prop :=
  ∀ s : State,
    Completes (transact .clearRedraw s) (fun t => t.redraw = false ∧ ChangesOnly (fun p => p = .redraw) s t) ∧
    (s.redraw = true → ∀ x t, transact x s = .next t → t.redraw = false → t.fault = none →
      x = .clearRedraw ∨ x = .reset ∨ ∃ u, x = .restore u)

/-- R105 (decision D21, logs 17 and 24): in every state, Restore of a well-formed state completes and makes every piece of
rule R20's record that state's, the keypad and redraw included, and the latch too, but that a latched fault stays where
the restored state has none (the model's choice beside R31 and R266, log 24); an ill-formed state is refused. The model's
own two fields go on (logs 6 and 20). -/
def Obligations.RestoreTakesOnlyWellFormedStates : Prop :=
  ∀ u s : State,
    (u.Inv → Completes (transact (.restore (snapshot u)) s) (fun t =>
      ChangesOnly (fun p => p = .draws ∨ p = .wasReset ∨ (p = .fault ∧ u.fault = none ∧ s.fault ≠ none)) u t ∧
      (u.fault = none → t.fault = s.fault) ∧ t.wasReset = s.wasReset ∧ t.Inv)) ∧
    (¬u.Inv → transact (.restore u) s = .refused .illFormedSnapshot)

/-- R264 (decision D6; 93_implementation_defined.md: refuse; log 20): the constructed machine, and every machine that has
not been reset since, has no step; Reset ends that, for good, and no other transaction does. -/
def Obligations.NoStepBeforeTheFirstReset : Prop :=
  State.constructed.fault = none ∧ State.constructed.wasReset = false ∧
  (∀ s : State, s.fault = none → s.wasReset = false → step s = .refused .stepBeforeReset) ∧
  (∀ (s t : State) (x : Transaction), s.wasReset = false → transact x s = .next t →
    if x = .reset then t.wasReset = true else t.wasReset = false) ∧
  (∀ s : State, Completes (transact .reset s) (fun t => t.wasReset = true)) ∧
  (∀ (s t : State) (x : Transaction), s.wasReset = true → transact x s = .next t → t.wasReset = true)
end

