-- ==== Sys2Proof/Laws/Decode.lean ====
section
/-! SUPPORT. The fields of a built word (rule R71), and what decoding a built word reads. -/

namespace Sys2Proof

variable (op x y n : Nibble) (kk : Byte) (nnn : Addr12)

@[simp] theorem wordNnn_op : (wordNnn op nnn).extractLsb' 12 4 = op := BitVec.extractLsb'_append_eq_left

@[simp] theorem wordNnn_nnn : (wordNnn op nnn).extractLsb' 0 12 = nnn := BitVec.extractLsb'_append_eq_right

@[simp] theorem wordXkk_op : (wordXkk op x kk).extractLsb' 12 4 = op := wordNnn_op op (x ++ kk)

@[simp] theorem wordXkk_x : (wordXkk op x kk).extractLsb' 8 4 = x :=
  (BitVec.extractLsb'_append_eq_of_add_le (xhi := op) (xlo := (x ++ kk : BitVec 12)) (start := 8) (len := 4)
    (by decide)).trans BitVec.extractLsb'_append_eq_left

@[simp] theorem wordXkk_kk : (wordXkk op x kk).extractLsb' 0 8 = kk :=
  (BitVec.extractLsb'_append_eq_of_add_le (xhi := op) (xlo := (x ++ kk : BitVec 12)) (start := 0) (len := 8)
    (by decide)).trans BitVec.extractLsb'_append_eq_right

@[simp] theorem wordXyn_op : (wordXyn op x y n).extractLsb' 12 4 = op := wordXkk_op op x (y ++ n)

@[simp] theorem wordXyn_x : (wordXyn op x y n).extractLsb' 8 4 = x := wordXkk_x op x (y ++ n)

theorem wordXkk_low (start len : Nat) (h : start + len ≤ 8) :
    (wordXkk op x kk).extractLsb' start len = kk.extractLsb' start len :=
  (BitVec.extractLsb'_append_eq_of_add_le (xhi := op) (xlo := (x ++ kk : BitVec 12)) (by omega)).trans
    (BitVec.extractLsb'_append_eq_of_add_le (xhi := x) (xlo := kk) h)

@[simp] theorem wordXyn_y : (wordXyn op x y n).extractLsb' 4 4 = y :=
  (wordXkk_low op x (y ++ n) 4 4 (by decide)).trans BitVec.extractLsb'_append_eq_left

@[simp] theorem wordXyn_n : (wordXyn op x y n).extractLsb' 0 4 = n :=
  (wordXkk_low op x (y ++ n) 0 4 (by decide)).trans BitVec.extractLsb'_append_eq_right

/-- Decoding reads op and nnn of a built word. -/
theorem decode_wordNnn : decode (wordNnn op nnn) =
    decodeFields (wordNnn op nnn) op ((wordNnn op nnn).extractLsb' 8 4) ((wordNnn op nnn).extractLsb' 4 4)
      ((wordNnn op nnn).extractLsb' 0 4) ((wordNnn op nnn).extractLsb' 0 8) nnn := by
  rw [decode, wordNnn_op, wordNnn_nnn]

/-- Decoding reads op, x and kk of a built word. -/
theorem decode_wordXkk : decode (wordXkk op x kk) =
    decodeFields (wordXkk op x kk) op x ((wordXkk op x kk).extractLsb' 4 4)
      ((wordXkk op x kk).extractLsb' 0 4) kk ((wordXkk op x kk).extractLsb' 0 12) := by
  rw [decode, wordXkk_op, wordXkk_x, wordXkk_kk]

/-- Decoding reads op, x, y and n of a built word. -/
theorem decode_wordXyn : decode (wordXyn op x y n) =
    decodeFields (wordXyn op x y n) op x y n ((wordXyn op x y n).extractLsb' 0 8)
      ((wordXyn op x y n).extractLsb' 0 12) := by
  rw [decode, wordXyn_op, wordXyn_x, wordXyn_y, wordXyn_n]

/-- Splitting a word into its two bytes and combining them gives the word back (rule R54). -/
theorem combineBytes_splitWord (w : Word) : combineBytes (w.extractLsb' 8 8) (w.extractLsb' 0 8) = w := by
  unfold combineBytes
  apply BitVec.eq_of_getLsbD_eq
  intro i hi
  rw [BitVec.getLsbD_append]
  split
  · rename_i h; simp [h]
  · rename_i h
    have h8 : i - 8 < 8 := by omega
    have : 8 + (i - 8) = i := by omega
    simp [h8, this]

end Sys2Proof
end

