-- ==== Sys2Proof/Laws/State.lean ====
section
/-! SUPPORT. One lemma per field and update of the state, and the register file's read-after-write laws. -/

namespace Sys2Proof.Machine

variable (s : State) (x y : Reg) (w : Byte) (u : Word)

@[simp] theorem State.setByte_mem (a : Nat) : (s.setByte a w).mem = s.mem.set a w := rfl
@[simp] theorem State.setByte_v (a : Nat) : (s.setByte a w).v = s.v := rfl
@[simp] theorem State.setByte_index (a : Nat) : (s.setByte a w).index = s.index := rfl
@[simp] theorem State.setByte_pc (a : Nat) : (s.setByte a w).pc = s.pc := rfl
@[simp] theorem State.setByte_stack (a : Nat) : (s.setByte a w).stack = s.stack := rfl
@[simp] theorem State.setByte_sp (a : Nat) : (s.setByte a w).sp = s.sp := rfl
@[simp] theorem State.setByte_dt (a : Nat) : (s.setByte a w).dt = s.dt := rfl
@[simp] theorem State.setByte_st (a : Nat) : (s.setByte a w).st = s.st := rfl
@[simp] theorem State.setByte_redraw (a : Nat) : (s.setByte a w).redraw = s.redraw := rfl
@[simp] theorem State.setByte_fb (a : Nat) : (s.setByte a w).fb = s.fb := rfl
@[simp] theorem State.setByte_key (a : Nat) : (s.setByte a w).key = s.key := rfl
@[simp] theorem State.setByte_fault (a : Nat) : (s.setByte a w).fault = s.fault := rfl
@[simp] theorem State.setByte_draws (a : Nat) : (s.setByte a w).draws = s.draws := rfl
@[simp] theorem State.setByte_wasReset (a : Nat) : (s.setByte a w).wasReset = s.wasReset := rfl

@[simp] theorem State.setReg_mem : (s.setReg x w).mem = s.mem := rfl
@[simp] theorem State.setReg_v : (s.setReg x w).v = s.v.set x.toNat w x.isLt := rfl
@[simp] theorem State.setReg_index : (s.setReg x w).index = s.index := rfl
@[simp] theorem State.setReg_pc : (s.setReg x w).pc = s.pc := rfl
@[simp] theorem State.setReg_stack : (s.setReg x w).stack = s.stack := rfl
@[simp] theorem State.setReg_sp : (s.setReg x w).sp = s.sp := rfl
@[simp] theorem State.setReg_dt : (s.setReg x w).dt = s.dt := rfl
@[simp] theorem State.setReg_st : (s.setReg x w).st = s.st := rfl
@[simp] theorem State.setReg_redraw : (s.setReg x w).redraw = s.redraw := rfl
@[simp] theorem State.setReg_fb : (s.setReg x w).fb = s.fb := rfl
@[simp] theorem State.setReg_key : (s.setReg x w).key = s.key := rfl
@[simp] theorem State.setReg_fault : (s.setReg x w).fault = s.fault := rfl
@[simp] theorem State.setReg_draws : (s.setReg x w).draws = s.draws := rfl
@[simp] theorem State.setReg_wasReset : (s.setReg x w).wasReset = s.wasReset := rfl

@[simp] theorem State.setPc_mem : (s.setPc u).mem = s.mem := rfl
@[simp] theorem State.setPc_v : (s.setPc u).v = s.v := rfl
@[simp] theorem State.setPc_index : (s.setPc u).index = s.index := rfl
@[simp] theorem State.setPc_pc : (s.setPc u).pc = u := rfl
@[simp] theorem State.setPc_stack : (s.setPc u).stack = s.stack := rfl
@[simp] theorem State.setPc_sp : (s.setPc u).sp = s.sp := rfl
@[simp] theorem State.setPc_dt : (s.setPc u).dt = s.dt := rfl
@[simp] theorem State.setPc_st : (s.setPc u).st = s.st := rfl
@[simp] theorem State.setPc_redraw : (s.setPc u).redraw = s.redraw := rfl
@[simp] theorem State.setPc_fb : (s.setPc u).fb = s.fb := rfl
@[simp] theorem State.setPc_key : (s.setPc u).key = s.key := rfl
@[simp] theorem State.setPc_fault : (s.setPc u).fault = s.fault := rfl
@[simp] theorem State.setPc_draws : (s.setPc u).draws = s.draws := rfl
@[simp] theorem State.setPc_wasReset : (s.setPc u).wasReset = s.wasReset := rfl

@[simp] theorem State.setIndex_mem : (s.setIndex u).mem = s.mem := rfl
@[simp] theorem State.setIndex_v : (s.setIndex u).v = s.v := rfl
@[simp] theorem State.setIndex_index : (s.setIndex u).index = u := rfl
@[simp] theorem State.setIndex_pc : (s.setIndex u).pc = s.pc := rfl
@[simp] theorem State.setIndex_stack : (s.setIndex u).stack = s.stack := rfl
@[simp] theorem State.setIndex_sp : (s.setIndex u).sp = s.sp := rfl
@[simp] theorem State.setIndex_dt : (s.setIndex u).dt = s.dt := rfl
@[simp] theorem State.setIndex_st : (s.setIndex u).st = s.st := rfl
@[simp] theorem State.setIndex_redraw : (s.setIndex u).redraw = s.redraw := rfl
@[simp] theorem State.setIndex_fb : (s.setIndex u).fb = s.fb := rfl
@[simp] theorem State.setIndex_key : (s.setIndex u).key = s.key := rfl
@[simp] theorem State.setIndex_fault : (s.setIndex u).fault = s.fault := rfl
@[simp] theorem State.setIndex_draws : (s.setIndex u).draws = s.draws := rfl
@[simp] theorem State.setIndex_wasReset : (s.setIndex u).wasReset = s.wasReset := rfl

@[simp] theorem State.setDt_mem : (s.setDt w).mem = s.mem := rfl
@[simp] theorem State.setDt_v : (s.setDt w).v = s.v := rfl
@[simp] theorem State.setDt_index : (s.setDt w).index = s.index := rfl
@[simp] theorem State.setDt_pc : (s.setDt w).pc = s.pc := rfl
@[simp] theorem State.setDt_stack : (s.setDt w).stack = s.stack := rfl
@[simp] theorem State.setDt_sp : (s.setDt w).sp = s.sp := rfl
@[simp] theorem State.setDt_dt : (s.setDt w).dt = w := rfl
@[simp] theorem State.setDt_st : (s.setDt w).st = s.st := rfl
@[simp] theorem State.setDt_redraw : (s.setDt w).redraw = s.redraw := rfl
@[simp] theorem State.setDt_fb : (s.setDt w).fb = s.fb := rfl
@[simp] theorem State.setDt_key : (s.setDt w).key = s.key := rfl
@[simp] theorem State.setDt_fault : (s.setDt w).fault = s.fault := rfl
@[simp] theorem State.setDt_draws : (s.setDt w).draws = s.draws := rfl
@[simp] theorem State.setDt_wasReset : (s.setDt w).wasReset = s.wasReset := rfl

@[simp] theorem State.setSt_mem : (s.setSt w).mem = s.mem := rfl
@[simp] theorem State.setSt_v : (s.setSt w).v = s.v := rfl
@[simp] theorem State.setSt_index : (s.setSt w).index = s.index := rfl
@[simp] theorem State.setSt_pc : (s.setSt w).pc = s.pc := rfl
@[simp] theorem State.setSt_stack : (s.setSt w).stack = s.stack := rfl
@[simp] theorem State.setSt_sp : (s.setSt w).sp = s.sp := rfl
@[simp] theorem State.setSt_dt : (s.setSt w).dt = s.dt := rfl
@[simp] theorem State.setSt_st : (s.setSt w).st = w := rfl
@[simp] theorem State.setSt_redraw : (s.setSt w).redraw = s.redraw := rfl
@[simp] theorem State.setSt_fb : (s.setSt w).fb = s.fb := rfl
@[simp] theorem State.setSt_key : (s.setSt w).key = s.key := rfl
@[simp] theorem State.setSt_fault : (s.setSt w).fault = s.fault := rfl
@[simp] theorem State.setSt_draws : (s.setSt w).draws = s.draws := rfl
@[simp] theorem State.setSt_wasReset : (s.setSt w).wasReset = s.wasReset := rfl

@[simp] theorem State.setRedraw_mem (b : Bool) : (s.setRedraw b).mem = s.mem := rfl
@[simp] theorem State.setRedraw_v (b : Bool) : (s.setRedraw b).v = s.v := rfl
@[simp] theorem State.setRedraw_index (b : Bool) : (s.setRedraw b).index = s.index := rfl
@[simp] theorem State.setRedraw_pc (b : Bool) : (s.setRedraw b).pc = s.pc := rfl
@[simp] theorem State.setRedraw_stack (b : Bool) : (s.setRedraw b).stack = s.stack := rfl
@[simp] theorem State.setRedraw_sp (b : Bool) : (s.setRedraw b).sp = s.sp := rfl
@[simp] theorem State.setRedraw_dt (b : Bool) : (s.setRedraw b).dt = s.dt := rfl
@[simp] theorem State.setRedraw_st (b : Bool) : (s.setRedraw b).st = s.st := rfl
@[simp] theorem State.setRedraw_redraw (b : Bool) : (s.setRedraw b).redraw = b := rfl
@[simp] theorem State.setRedraw_fb (b : Bool) : (s.setRedraw b).fb = s.fb := rfl
@[simp] theorem State.setRedraw_key (b : Bool) : (s.setRedraw b).key = s.key := rfl
@[simp] theorem State.setRedraw_fault (b : Bool) : (s.setRedraw b).fault = s.fault := rfl
@[simp] theorem State.setRedraw_draws (b : Bool) : (s.setRedraw b).draws = s.draws := rfl
@[simp] theorem State.setRedraw_wasReset (b : Bool) : (s.setRedraw b).wasReset = s.wasReset := rfl

@[simp] theorem State.setFb_mem (f : Framebuffer) : (s.setFb f).mem = s.mem := rfl
@[simp] theorem State.setFb_v (f : Framebuffer) : (s.setFb f).v = s.v := rfl
@[simp] theorem State.setFb_index (f : Framebuffer) : (s.setFb f).index = s.index := rfl
@[simp] theorem State.setFb_pc (f : Framebuffer) : (s.setFb f).pc = s.pc := rfl
@[simp] theorem State.setFb_stack (f : Framebuffer) : (s.setFb f).stack = s.stack := rfl
@[simp] theorem State.setFb_sp (f : Framebuffer) : (s.setFb f).sp = s.sp := rfl
@[simp] theorem State.setFb_dt (f : Framebuffer) : (s.setFb f).dt = s.dt := rfl
@[simp] theorem State.setFb_st (f : Framebuffer) : (s.setFb f).st = s.st := rfl
@[simp] theorem State.setFb_redraw (f : Framebuffer) : (s.setFb f).redraw = s.redraw := rfl
@[simp] theorem State.setFb_fb (f : Framebuffer) : (s.setFb f).fb = f := rfl
@[simp] theorem State.setFb_key (f : Framebuffer) : (s.setFb f).key = s.key := rfl
@[simp] theorem State.setFb_fault (f : Framebuffer) : (s.setFb f).fault = s.fault := rfl
@[simp] theorem State.setFb_draws (f : Framebuffer) : (s.setFb f).draws = s.draws := rfl
@[simp] theorem State.setFb_wasReset (f : Framebuffer) : (s.setFb f).wasReset = s.wasReset := rfl

@[simp] theorem State.setKey_mem (k : Fin 16) (b : Bool) : (s.setKey k b).mem = s.mem := rfl
@[simp] theorem State.setKey_v (k : Fin 16) (b : Bool) : (s.setKey k b).v = s.v := rfl
@[simp] theorem State.setKey_index (k : Fin 16) (b : Bool) : (s.setKey k b).index = s.index := rfl
@[simp] theorem State.setKey_pc (k : Fin 16) (b : Bool) : (s.setKey k b).pc = s.pc := rfl
@[simp] theorem State.setKey_stack (k : Fin 16) (b : Bool) : (s.setKey k b).stack = s.stack := rfl
@[simp] theorem State.setKey_sp (k : Fin 16) (b : Bool) : (s.setKey k b).sp = s.sp := rfl
@[simp] theorem State.setKey_dt (k : Fin 16) (b : Bool) : (s.setKey k b).dt = s.dt := rfl
@[simp] theorem State.setKey_st (k : Fin 16) (b : Bool) : (s.setKey k b).st = s.st := rfl
@[simp] theorem State.setKey_redraw (k : Fin 16) (b : Bool) : (s.setKey k b).redraw = s.redraw := rfl
@[simp] theorem State.setKey_fb (k : Fin 16) (b : Bool) : (s.setKey k b).fb = s.fb := rfl
@[simp] theorem State.setKey_key (k : Fin 16) (b : Bool) : (s.setKey k b).key = s.key.set k.val b k.isLt := rfl
@[simp] theorem State.setKey_fault (k : Fin 16) (b : Bool) : (s.setKey k b).fault = s.fault := rfl
@[simp] theorem State.setKey_draws (k : Fin 16) (b : Bool) : (s.setKey k b).draws = s.draws := rfl
@[simp] theorem State.setKey_wasReset (k : Fin 16) (b : Bool) : (s.setKey k b).wasReset = s.wasReset := rfl

@[simp] theorem State.setFlag_mem : (s.setFlag w).mem = s.mem := rfl
@[simp] theorem State.setFlag_v : (s.setFlag w).v = s.v.set regF.toNat w regF.isLt := rfl
@[simp] theorem State.setFlag_index : (s.setFlag w).index = s.index := rfl
@[simp] theorem State.setFlag_pc : (s.setFlag w).pc = s.pc := rfl
@[simp] theorem State.setFlag_stack : (s.setFlag w).stack = s.stack := rfl
@[simp] theorem State.setFlag_sp : (s.setFlag w).sp = s.sp := rfl
@[simp] theorem State.setFlag_dt : (s.setFlag w).dt = s.dt := rfl
@[simp] theorem State.setFlag_st : (s.setFlag w).st = s.st := rfl
@[simp] theorem State.setFlag_redraw : (s.setFlag w).redraw = s.redraw := rfl
@[simp] theorem State.setFlag_fb : (s.setFlag w).fb = s.fb := rfl
@[simp] theorem State.setFlag_key : (s.setFlag w).key = s.key := rfl
@[simp] theorem State.setFlag_fault : (s.setFlag w).fault = s.fault := rfl
@[simp] theorem State.setFlag_draws : (s.setFlag w).draws = s.draws := rfl
@[simp] theorem State.setFlag_wasReset : (s.setFlag w).wasReset = s.wasReset := rfl

@[simp] theorem State.advancePc_mem : (s.advancePc).mem = s.mem := rfl
@[simp] theorem State.advancePc_v : (s.advancePc).v = s.v := rfl
@[simp] theorem State.advancePc_index : (s.advancePc).index = s.index := rfl
@[simp] theorem State.advancePc_pc : (s.advancePc).pc = s.pc + 2#16 := rfl
@[simp] theorem State.advancePc_stack : (s.advancePc).stack = s.stack := rfl
@[simp] theorem State.advancePc_sp : (s.advancePc).sp = s.sp := rfl
@[simp] theorem State.advancePc_dt : (s.advancePc).dt = s.dt := rfl
@[simp] theorem State.advancePc_st : (s.advancePc).st = s.st := rfl
@[simp] theorem State.advancePc_redraw : (s.advancePc).redraw = s.redraw := rfl
@[simp] theorem State.advancePc_fb : (s.advancePc).fb = s.fb := rfl
@[simp] theorem State.advancePc_key : (s.advancePc).key = s.key := rfl
@[simp] theorem State.advancePc_fault : (s.advancePc).fault = s.fault := rfl
@[simp] theorem State.advancePc_draws : (s.advancePc).draws = s.draws := rfl
@[simp] theorem State.advancePc_wasReset : (s.advancePc).wasReset = s.wasReset := rfl

@[simp] theorem State.retreatPc_mem : (s.retreatPc).mem = s.mem := rfl
@[simp] theorem State.retreatPc_v : (s.retreatPc).v = s.v := rfl
@[simp] theorem State.retreatPc_index : (s.retreatPc).index = s.index := rfl
@[simp] theorem State.retreatPc_pc : (s.retreatPc).pc = s.pc - 2#16 := rfl
@[simp] theorem State.retreatPc_stack : (s.retreatPc).stack = s.stack := rfl
@[simp] theorem State.retreatPc_sp : (s.retreatPc).sp = s.sp := rfl
@[simp] theorem State.retreatPc_dt : (s.retreatPc).dt = s.dt := rfl
@[simp] theorem State.retreatPc_st : (s.retreatPc).st = s.st := rfl
@[simp] theorem State.retreatPc_redraw : (s.retreatPc).redraw = s.redraw := rfl
@[simp] theorem State.retreatPc_fb : (s.retreatPc).fb = s.fb := rfl
@[simp] theorem State.retreatPc_key : (s.retreatPc).key = s.key := rfl
@[simp] theorem State.retreatPc_fault : (s.retreatPc).fault = s.fault := rfl
@[simp] theorem State.retreatPc_draws : (s.retreatPc).draws = s.draws := rfl
@[simp] theorem State.retreatPc_wasReset : (s.retreatPc).wasReset = s.wasReset := rfl

@[simp] theorem State.skipIf_mem (c : Bool) : (s.skipIf c).mem = s.mem := by cases c <;> rfl
@[simp] theorem State.skipIf_v (c : Bool) : (s.skipIf c).v = s.v := by cases c <;> rfl
@[simp] theorem State.skipIf_index (c : Bool) : (s.skipIf c).index = s.index := by cases c <;> rfl
@[simp] theorem State.skipIf_pc (c : Bool) : (s.skipIf c).pc = if c then s.pc + 2#16 else s.pc := by cases c <;> rfl
@[simp] theorem State.skipIf_stack (c : Bool) : (s.skipIf c).stack = s.stack := by cases c <;> rfl
@[simp] theorem State.skipIf_sp (c : Bool) : (s.skipIf c).sp = s.sp := by cases c <;> rfl
@[simp] theorem State.skipIf_dt (c : Bool) : (s.skipIf c).dt = s.dt := by cases c <;> rfl
@[simp] theorem State.skipIf_st (c : Bool) : (s.skipIf c).st = s.st := by cases c <;> rfl
@[simp] theorem State.skipIf_redraw (c : Bool) : (s.skipIf c).redraw = s.redraw := by cases c <;> rfl
@[simp] theorem State.skipIf_fb (c : Bool) : (s.skipIf c).fb = s.fb := by cases c <;> rfl
@[simp] theorem State.skipIf_key (c : Bool) : (s.skipIf c).key = s.key := by cases c <;> rfl
@[simp] theorem State.skipIf_fault (c : Bool) : (s.skipIf c).fault = s.fault := by cases c <;> rfl
@[simp] theorem State.skipIf_draws (c : Bool) : (s.skipIf c).draws = s.draws := by cases c <;> rfl
@[simp] theorem State.skipIf_wasReset (c : Bool) : (s.skipIf c).wasReset = s.wasReset := by cases c <;> rfl

@[simp] theorem timerTick_mem : (timerTick s).mem = s.mem := rfl
@[simp] theorem timerTick_v : (timerTick s).v = s.v := rfl
@[simp] theorem timerTick_index : (timerTick s).index = s.index := rfl
@[simp] theorem timerTick_pc : (timerTick s).pc = s.pc := rfl
@[simp] theorem timerTick_stack : (timerTick s).stack = s.stack := rfl
@[simp] theorem timerTick_sp : (timerTick s).sp = s.sp := rfl
@[simp] theorem timerTick_dt : (timerTick s).dt = tickByte s.dt := rfl
@[simp] theorem timerTick_st : (timerTick s).st = tickByte s.st := rfl
@[simp] theorem timerTick_redraw : (timerTick s).redraw = s.redraw := rfl
@[simp] theorem timerTick_fb : (timerTick s).fb = s.fb := rfl
@[simp] theorem timerTick_key : (timerTick s).key = s.key := rfl
@[simp] theorem timerTick_fault : (timerTick s).fault = s.fault := rfl
@[simp] theorem timerTick_draws : (timerTick s).draws = s.draws := rfl
@[simp] theorem timerTick_wasReset : (timerTick s).wasReset = s.wasReset := rfl

@[simp] theorem drawRandom_mem : (drawRandom s).2.mem = s.mem := rfl
@[simp] theorem drawRandom_v : (drawRandom s).2.v = s.v := rfl
@[simp] theorem drawRandom_index : (drawRandom s).2.index = s.index := rfl
@[simp] theorem drawRandom_pc : (drawRandom s).2.pc = s.pc := rfl
@[simp] theorem drawRandom_stack : (drawRandom s).2.stack = s.stack := rfl
@[simp] theorem drawRandom_sp : (drawRandom s).2.sp = s.sp := rfl
@[simp] theorem drawRandom_dt : (drawRandom s).2.dt = s.dt := rfl
@[simp] theorem drawRandom_st : (drawRandom s).2.st = s.st := rfl
@[simp] theorem drawRandom_redraw : (drawRandom s).2.redraw = s.redraw := rfl
@[simp] theorem drawRandom_fb : (drawRandom s).2.fb = s.fb := rfl
@[simp] theorem drawRandom_key : (drawRandom s).2.key = s.key := rfl
@[simp] theorem drawRandom_fault : (drawRandom s).2.fault = s.fault := rfl
@[simp] theorem drawRandom_draws : (drawRandom s).2.draws = s.draws + 1 := rfl
@[simp] theorem drawRandom_wasReset : (drawRandom s).2.wasReset = s.wasReset := rfl

/-- A fault entry sets the latch to the fault's kind (rule R232). -/
@[simp] theorem enterFault_fault (k : Fault) : (enterFault k s).fault = some k := rfl

/-! The register file. -/

theorem State.reg_eq (i : Reg) : s.reg i = s.v[i.toNat]'i.isLt := rfl

@[simp] theorem State.reg_setReg_same : (s.setReg x w).reg x = w := by
  simp [State.reg, State.setReg]

theorem State.reg_setReg (i : Reg) : (s.setReg x w).reg i = if i = x then w else s.reg i := by
  simp only [State.reg, State.setReg, Vector.getElem_set]
  by_cases h : i = x
  · simp [h]
  · have : x.toNat ≠ i.toNat := fun e => h (BitVec.eq_of_toNat_eq e.symm)
    simp [h, this]

@[simp] theorem State.reg_setFlag_same : (s.setFlag w).reg regF = w := State.reg_setReg_same s regF w

theorem State.reg_setFlag (i : Reg) : (s.setFlag w).reg i = if i = regF then w else s.reg i :=
  State.reg_setReg s regF w i

/-- Two states with the same register file have the same registers. -/
theorem State.reg_congr {s t : State} (h : t.v = s.v) (i : Reg) : t.reg i = s.reg i := by
  simp only [State.reg, h]

end Sys2Proof.Machine
end

