-- ==== Sys2Proof/Laws/Memory.lean ====
section
/-! SUPPORT. Memory: read after write, and that every memory operation keeps the canonical form; what a block read and
a block write do. -/

namespace Sys2Proof.Machine

/-! Read after write. -/

theorem Memory.lookup_insert (m : Memory) (a b : Nat) (w : Byte) :
    Memory.lookup (Memory.insert m a w) b = if a = b then some w else Memory.lookup m b := by
  induction m with
  | nil => simp [Memory.insert, Memory.lookup]
  | cons p m ih =>
    obtain ⟨c, u⟩ := p
    simp only [Memory.insert]
    split
    · simp [Memory.lookup]
    · split
      · rename_i h; subst h; by_cases hb : a = b <;> simp [Memory.lookup, hb]
      · rename_i hne
        simp only [Memory.lookup, ih]
        by_cases hc : c = b
        · have : a ≠ b := fun e => hne (e.trans hc.symm)
          simp [hc, this]
        · simp [hc]

theorem Memory.lookup_erase (m : Memory) (a b : Nat) :
    Memory.lookup (Memory.erase m a) b = if a = b then none else Memory.lookup m b := by
  induction m with
  | nil => simp [Memory.erase, Memory.lookup]
  | cons p m ih =>
    obtain ⟨c, u⟩ := p
    by_cases hc : c = a
    · subst hc; by_cases hb : c = b <;> simp_all [Memory.erase, Memory.lookup]
    · by_cases hb : c = b
      · subst hb; simp [Memory.erase, Memory.lookup, hc, Ne.symm hc]
      · simp [Memory.erase, Memory.lookup, hc, hb, ih]

/-- A byte reads as what was last written to it, and every other byte as before (rules R53, R58). -/
theorem Memory.get_set (m : Memory) (a b : Nat) (w : Byte) :
    Memory.get (Memory.set m a w) b = if a = b then w else Memory.get m b := by
  unfold Memory.set Memory.get
  split
  · rename_i h
    rw [Memory.lookup_erase]
    by_cases hb : a = b
    · subst hb; simp [h]
    · simp [hb]
  · rw [Memory.lookup_insert]
    by_cases hb : a = b <;> simp [hb]

theorem State.byte_setByte (s : State) (a b : Nat) (w : Byte) :
    (s.setByte a w).byte b = if a = b then w else s.byte b := Memory.get_set s.mem a b w

/-! The canonical form is kept. -/

theorem Memory.wfFrom_cons {lo a : Nat} {w : Byte} {m : Memory} :
    Memory.wfFrom lo ((a, w) :: m) = true ↔
      lo ≤ a ∧ a < 0x1000 ∧ w ≠ unlistedByte a ∧ Memory.wfFrom (a + 1) m = true := by
  simp only [Memory.wfFrom, Bool.and_eq_true, decide_eq_true_eq, Bool.not_eq_true', beq_eq_false_iff_ne, and_assoc]

theorem Memory.wfFrom_mono {lo lo' : Nat} {m : Memory} (h : Memory.wfFrom lo m = true) (hle : lo' ≤ lo) :
    Memory.wfFrom lo' m = true := by
  cases m with
  | nil => rfl
  | cons p m =>
    obtain ⟨a, w⟩ := p
    rw [Memory.wfFrom_cons] at h ⊢
    exact ⟨by omega, h.2⟩

theorem Memory.wfFrom_insert {lo a : Nat} {w : Byte} {m : Memory} (h : Memory.wfFrom lo m = true) (hlo : lo ≤ a)
    (ha : a < 0x1000) (hw : w ≠ unlistedByte a) : Memory.wfFrom lo (Memory.insert m a w) = true := by
  induction m generalizing lo with
  | nil => exact Memory.wfFrom_cons.2 ⟨hlo, ha, hw, rfl⟩
  | cons p m ih =>
    obtain ⟨b, u⟩ := p
    obtain ⟨hb, hbs, hu, ht⟩ := Memory.wfFrom_cons.1 h
    simp only [Memory.insert]
    split
    · exact Memory.wfFrom_cons.2 ⟨hlo, ha, hw, Memory.wfFrom_cons.2 ⟨by omega, hbs, hu, ht⟩⟩
    · split
      · rename_i e; subst e; exact Memory.wfFrom_cons.2 ⟨hlo, ha, hw, ht⟩
      · exact Memory.wfFrom_cons.2 ⟨hb, hbs, hu, ih ht (by omega)⟩

theorem Memory.wfFrom_erase {lo a : Nat} {m : Memory} (h : Memory.wfFrom lo m = true) :
    Memory.wfFrom lo (Memory.erase m a) = true := by
  induction m generalizing lo with
  | nil => rfl
  | cons p m ih =>
    obtain ⟨b, u⟩ := p
    obtain ⟨hb, hbs, hu, ht⟩ := Memory.wfFrom_cons.1 h
    simp only [Memory.erase]
    split
    · exact Memory.wfFrom_mono (ih ht) (by omega)
    · exact Memory.wfFrom_cons.2 ⟨hb, hbs, hu, ih ht⟩

/-- A write inside memory keeps the canonical form. -/
theorem Memory.wf_set {m : Memory} {a : Nat} {w : Byte} (h : m.wf = true) (ha : a < 0x1000) :
    (m.set a w).wf = true := by
  unfold Memory.set
  split
  · exact Memory.wfFrom_erase h
  · exact Memory.wfFrom_insert h (Nat.zero_le a) ha (by assumption)

theorem Memory.wfFrom_ofFun (f : Nat → Byte) (a n : Nat) (h : a + n ≤ 0x1000) :
    Memory.wfFrom a (Memory.ofFun f a n) = true := by
  induction n generalizing a with
  | zero => rfl
  | succ n ih =>
    simp only [Memory.ofFun]
    split
    · exact Memory.wfFrom_mono (ih (a + 1) (by omega)) (by omega)
    · exact Memory.wfFrom_cons.2 ⟨Nat.le_refl a, by omega, by assumption, ih (a + 1) (by omega)⟩

/-- The list built from a function is in canonical form. -/
theorem Memory.wf_ofFun (f : Nat → Byte) : Memory.wf (Memory.ofFun f 0 0x1000) = true :=
  Memory.wfFrom_ofFun f 0 0x1000 (Nat.le_refl _)

theorem Memory.lookup_ofFun (f : Nat → Byte) (a n b : Nat) :
    (Memory.lookup (Memory.ofFun f a n) b).getD (unlistedByte b) =
      if a ≤ b ∧ b < a + n then f b else unlistedByte b := by
  induction n generalizing a with
  | zero =>
    have h : ¬(a ≤ b ∧ b < a + 0) := by omega
    rw [if_neg h]; rfl
  | succ n ih =>
    simp only [Memory.ofFun]
    split
    · rename_i hf
      rw [ih (a + 1)]
      by_cases hb : a = b
      · subst hb
        rw [if_neg (by omega), if_pos (by omega), hf]
      · by_cases hc : a + 1 ≤ b ∧ b < a + 1 + n
        · rw [if_pos hc, if_pos (by omega)]
        · rw [if_neg hc, if_neg (by omega)]
    · simp only [Memory.lookup]
      by_cases hb : a = b
      · subst hb; rw [if_pos rfl, if_pos (by omega)]; rfl
      · rw [if_neg hb, ih (a + 1)]
        by_cases hc : a + 1 ≤ b ∧ b < a + 1 + n
        · rw [if_pos hc, if_pos (by omega)]
        · rw [if_neg hc, if_neg (by omega)]

/-- The list built from a function reads as the function inside memory. -/
theorem Memory.get_ofFun (f : Nat → Byte) (b : Nat) (hb : b < 0x1000) :
    Memory.get (Memory.ofFun f 0 0x1000) b = f b := by
  rw [Memory.get, Memory.lookup_ofFun, if_pos (by omega)]

/-- What a byte write can do: fault above 0xFFF, else write that byte (rule R53). -/
theorem memWrite_cases (s : State) (a : Nat) (w : Byte) :
    (0xFFF < a ∧ memWrite s a w = .error .memOutOfRange) ∨ (a ≤ 0xFFF ∧ memWrite s a w = .ok (s.setByte a w)) := by
  unfold memWrite
  split
  · left; constructor
    · omega
    · rfl
  · right; constructor
    · omega
    · rfl

/-! Blocks. -/

/-- What a block read gives: the bytes if all addresses are inside memory (or none is read), else MemOutOfRange
(rules R52, R53). -/
theorem readBlock_eq (s : State) (a n : Nat) :
    readBlock s a n = if n = 0 ∨ a + n ≤ 0x1000 then .ok ((List.range n).map (fun k => s.byte (a + k)))
      else .error .memOutOfRange := by
  induction n generalizing a with
  | zero => simp [readBlock]
  | succ n ih =>
    simp only [readBlock, memRead, ih (a + 1)]
    by_cases ha : a > 0xFFF
    · rw [if_pos ha, if_neg (show ¬(n + 1 = 0 ∨ a + (n + 1) ≤ 0x1000) by omega)]
    · rw [if_neg ha]
      by_cases hn : n = 0 ∨ a + 1 + n ≤ 0x1000
      · rw [if_pos hn, if_pos (show n + 1 = 0 ∨ a + (n + 1) ≤ 0x1000 by omega)]
        simp only [List.range_succ_eq_map, List.map_cons, List.map_map, Nat.add_zero]
        congr 2
        apply List.map_congr_left
        intro k _
        simp only [Function.comp, Nat.succ_eq_add_one]
        congr 1; omega
      · rw [if_neg hn, if_neg (show ¬(n + 1 = 0 ∨ a + (n + 1) ≤ 0x1000) by omega)]

/-- What a block write gives when it does not fault: memory in canonical form stays so, every byte of the block reads as
written and every other byte as before, and nothing but memory changes. -/
theorem writeBlock_spec (s : State) (a : Nat) (bs : List Byte) :
    (bs = [] ∨ a + bs.length ≤ 0x1000) ∧
      (∃ m, writeBlock s a bs = .ok { s with mem := m } ∧ (s.mem.wf = true → m.wf = true) ∧
        ∀ c, m.get c = if h : a ≤ c ∧ c < a + bs.length then bs[c - a]'(by omega) else s.mem.get c)
    ∨ ¬(bs = [] ∨ a + bs.length ≤ 0x1000) ∧ writeBlock s a bs = .error .memOutOfRange := by
  induction bs generalizing s a with
  | nil => left; exact ⟨Or.inl rfl, s.mem, rfl, id, fun c => by rw [dif_neg (by simp only [List.length_nil]; omega)]⟩
  | cons b bs ih =>
    rcases memWrite_cases s a b with ⟨ha, hw⟩ | ⟨ha, hw⟩
    · right
      refine ⟨by simp; omega, ?_⟩
      simp only [writeBlock, hw]
    · rcases ih (s.setByte a b) (a + 1) with ⟨hfit, m, hm, hwf, hget⟩ | ⟨hno, hm⟩
      · left
        refine ⟨Or.inr ?_, m, ?_, ?_, ?_⟩
        · rcases hfit with rfl | h
          · simp; omega
          · simp; omega
        · simp only [writeBlock, hw, hm]; rfl
        · intro h; exact hwf (Memory.wf_set h (by omega))
        · intro c
          rw [hget c]
          have hs : (s.setByte a b).mem.get c = if a = c then b else s.mem.get c := Memory.get_set s.mem a c b
          by_cases hc : a = c
          · subst hc
            rw [dif_neg (by omega), dif_pos (by simp), hs, if_pos rfl]
            simp
          · by_cases hin : a + 1 ≤ c ∧ c < a + 1 + bs.length
            · rw [dif_pos hin, dif_pos (by simp; omega)]
              have : c - a = (c - (a + 1)) + 1 := by omega
              simp only [this, List.getElem_cons_succ]
            · rw [dif_neg hin, dif_neg (by simp; omega), hs, if_neg hc]
      · right
        simp only [not_or] at hno
        refine ⟨by simp; omega, ?_⟩
        simp only [writeBlock, hw, hm]

/-- The host's byte placement changes memory alone and keeps its canonical form. -/
theorem State.placeBytes_spec (s : State) (a : Nat) (bs : List Byte) :
    ∃ m, s.placeBytes a bs = { s with mem := m } ∧ (s.mem.wf = true → m.wf = true) ∧
      ∀ c, m.get c = if h : (a ≤ c ∧ c < a + bs.length) ∧ c ≤ 0xFFF then bs[c - a]'(by omega) else s.mem.get c := by
  induction bs generalizing s a with
  | nil => exact ⟨s.mem, rfl, id, fun c => by rw [dif_neg (by simp only [List.length_nil]; omega)]⟩
  | cons b bs ih =>
    by_cases ha : a > 0xFFF
    · obtain ⟨m, hm, hwf, hget⟩ := ih s (a + 1)
      refine ⟨m, ?_, hwf, fun c => ?_⟩
      · simp only [State.placeBytes, if_pos ha, hm]
      · rw [hget c, dif_neg (by omega), dif_neg (by omega)]
    · obtain ⟨m, hm, hwf, hget⟩ := ih (s.setByte a b) (a + 1)
      refine ⟨m, ?_, fun h => hwf (Memory.wf_set h (by omega)), fun c => ?_⟩
      · simp only [State.placeBytes, if_neg ha, hm]; rfl
      · rw [hget c]
        have hs : (s.setByte a b).mem.get c = if a = c then b else s.mem.get c := Memory.get_set s.mem a c b
        by_cases hc : a = c
        · subst hc
          rw [dif_neg (by omega), dif_pos (by simp; omega), hs, if_pos rfl]
          simp
        · by_cases hin : (a + 1 ≤ c ∧ c < a + 1 + bs.length) ∧ c ≤ 0xFFF
          · rw [dif_pos hin, dif_pos (by simp; omega)]
            have : c - a = (c - (a + 1)) + 1 := by omega
            simp only [this, List.getElem_cons_succ]
          · rw [dif_neg hin, dif_neg (by simp; omega), hs, if_neg hc]

end Sys2Proof.Machine
end

