-- ==== Sys2Proof/Laws/Ops.lean ====
section
/-! SUPPORT. What each shared operation can do, said once: the stack, the register blocks, the operands, the keypad, the
fault entry, the fetch and the end of a step. -/

namespace Sys2Proof.Machine

/-! The stack. -/

/-- What a push can do (rule R123). -/
theorem pushStack_cases (s : State) (w : Word) :
    (s.sp.val = 16 ∧ pushStack s w = .error .stackOverflow) ∨
      (∃ h : s.sp.val < 16, pushStack s w =
        .ok { s with stack := s.stack.set s.sp.val w h, sp := ⟨s.sp.val + 1, by omega⟩ }) := by
  unfold pushStack
  split
  · left; exact ⟨by assumption, rfl⟩
  · right; exact ⟨by omega, rfl⟩

/-- What a pop can do (rule R121). -/
theorem popStack_cases (s : State) :
    (s.sp.val = 0 ∧ popStack s = .error .stackUnderflow) ∨
      (∃ h : s.sp.val - 1 < 16, s.sp.val ≠ 0 ∧ popStack s =
        .ok (s.stack[s.sp.val - 1]'h, { s with sp := ⟨s.sp.val - 1, by omega⟩ })) := by
  unfold popStack
  split
  · left; exact ⟨by assumption, rfl⟩
  · right; exact ⟨by omega, by assumption, rfl⟩

/-! Register blocks. -/

theorem State.regsTo_length (s : State) (x : Reg) : (s.regsTo x).length = x.toNat + 1 := by
  have := x.isLt
  simp [State.regsTo]; omega

/-- The j-th byte that store-registers stores is V[j] (rule R174). -/
theorem State.regsTo_getElem (s : State) (x : Reg) (j : Nat) (h : j < (s.regsTo x).length) :
    (s.regsTo x)[j] = s.reg (BitVec.ofNat 4 j) := by
  have hj : j < 16 := by rw [State.regsTo_length] at h; have := x.isLt; omega
  simp [State.regsTo, State.reg, Nat.mod_eq_of_lt hj]

/-- Loading a list of bytes into the registers from `j` changes the register file alone. -/
theorem State.setRegsFrom_eq (s : State) (j : Nat) (bs : List Byte) :
    ∃ v, s.setRegsFrom j bs = { s with v := v } ∧
      ∀ (i : Nat) (hi : i < 16), v[i] = if h : j ≤ i ∧ i < j + bs.length then bs[i - j]'(by omega) else s.v[i] := by
  induction bs generalizing s j with
  | nil => exact ⟨s.v, rfl, fun i hi => by rw [dif_neg (by simp only [List.length_nil]; omega)]⟩
  | cons b bs ih =>
    obtain ⟨v, hv, hget⟩ := ih { s with v := s.v.setIfInBounds j b } (j + 1)
    refine ⟨v, by simp only [State.setRegsFrom, hv], fun i hi => ?_⟩
    rw [hget i hi]
    by_cases hc : j = i
    · subst hc
      rw [dif_neg (by omega), dif_pos (by simp only [List.length_cons]; omega)]
      simp
    · by_cases hin : j + 1 ≤ i ∧ i < j + 1 + bs.length
      · rw [dif_pos hin, dif_pos (by simp only [List.length_cons]; omega)]
        have : i - j = (i - (j + 1)) + 1 := by omega
        simp only [this, List.getElem_cons_succ]
      · rw [dif_neg hin, dif_neg (by simp only [List.length_cons]; omega), Vector.getElem_setIfInBounds_ne _ hc]

/-! Operands. -/

/-- What reading a key operand can do (rules R211, R212). -/
theorem keyOperand_cases (s : State) (x : Reg) :
    (0xF < (s.reg x).toNat ∧ keyOperand s x = .error .keyOutOfRange) ∨
      (∃ h : (s.reg x).toNat < 16, keyOperand s x = .ok ⟨(s.reg x).toNat, h⟩) := by
  unfold keyOperand
  split
  · right; exact ⟨by assumption, rfl⟩
  · left; exact ⟨by omega, rfl⟩

/-- What reading the sprite bytes gives (rule R195). -/
theorem spriteOperand_eq (s : State) (n : Nibble) :
    spriteOperand s n = if n.toNat = 0 ∨ indexAddr s + n.toNat ≤ 0x1000
      then .ok ((List.range n.toNat).map (fun k => s.byte (indexAddr s + k))) else .error .memOutOfRange :=
  readBlock_eq s (indexAddr s) n.toNat

/-- No key is pressed, or the lowest pressed key is found (rule R214). -/
theorem State.lowestKey_cases (s : State) :
    (s.lowestKey = none ∧ ∀ k : Fin 16, s.keyDown k = false) ∨
      (∃ k : Fin 16, s.lowestKey = some k.val ∧ s.keyDown k = true ∧ ∀ j : Fin 16, j < k → s.keyDown j = false) := by
  have hget : ∀ k : Fin 16, s.key[k.val]?.getD false = s.keyDown k := fun k => by simp [State.keyDown]
  rcases hk : s.lowestKey with _ | k
  · left
    refine ⟨rfl, fun k => ?_⟩
    have := List.find?_eq_none.1 hk k.val (List.mem_range.2 k.isLt)
    rw [hget k] at this
    simpa using this
  · right
    obtain ⟨hp, hlt, hmin⟩ : (s.key[k]?.getD false) = true ∧ k < 16 ∧
        ∀ j, j < k → (s.key[j]?.getD false) = false := by
      have h := hk
      unfold State.lowestKey at h
      rw [List.find?_range_eq_some] at h
      refine ⟨h.1, List.mem_range.1 h.2.1, fun j hj => ?_⟩
      simpa using h.2.2 j hj
    refine ⟨⟨k, hlt⟩, rfl, ?_, fun j hj => ?_⟩
    · rw [← hget]; exact hp
    · rw [← hget]; exact hmin j.val hj

/-! Faults. -/

/-- A meaning that raises or goes on: which outcome it has. -/
@[simp] theorem raising_ok (t : State) : raising (.ok t) = .next t := rfl
@[simp] theorem raising_error (k : Fault) : raising (.error k) = .fault k := rfl

/-! The parts of a step. -/

/-- What a fetch can do (rule R92). -/
theorem fetch_cases (s : State) :
    (0xFFE < s.pc.toNat ∧ fetch s = .error .fetchOutOfRange) ∨
      (s.pc.toNat ≤ 0xFFE ∧ fetch s = .ok (combineBytes (s.byte s.pc.toNat) (s.byte (s.pc.toNat + 1)))) := by
  unfold fetch
  split
  · left; exact ⟨by omega, rfl⟩
  · right; exact ⟨by omega, rfl⟩

/-- What can bar a step, and the outcome then (rules R99, R264). -/
theorem stepBar_cases (s : State) :
    (∃ k, s.fault = some k ∧ stepBar s = some (.fault k)) ∨
      (s.fault = none ∧ s.wasReset = false ∧ stepBar s = some (.refused .stepBeforeReset)) ∨
      (s.fault = none ∧ s.wasReset = true ∧ stepBar s = none) := by
  unfold stepBar
  rcases s.fault with _ | k <;> rcases s.wasReset with _ | _ <;> simp

/-- A step that nothing bars: fetch, advance pc, execute, end the step (rule R91). -/
theorem stepWith_open {s : State} (p : Config.UnknownOpcodePolicy) (hf : s.fault = none) (hr : s.wasReset = true) :
    stepWith p s = match fetch s with
      | .error k => finishStep s (.fault k)
      | .ok w => finishStep s (executeWord p w s.advancePc) := by
  have e : stepBar s = none := by simp [stepBar, hf, hr]
  unfold stepWith
  rcases fetch s with k | w <;> simp only [e]

/-- What a step that answers a next state did: no fault was latched and the machine had been reset; its fetch
faulted, its execute phase faulted, or its execute phase answered a state, which was then ticked (rules R91, R96, R99,
R232, R264). -/
theorem step_next_cases {s t : State} (h : step s = .next t) :
    s.fault = none ∧ s.wasReset = true ∧
      ((∃ k, fetch s = .error k ∧ t = enterFault k s) ∨
       (∃ w, fetch s = .ok w ∧ ((∃ k, executeWord unknownOpcodePolicy w s.advancePc = .fault k ∧ t = enterFault k s) ∨
         (∃ u, executeWord unknownOpcodePolicy w s.advancePc = .next u ∧ t = timerTick u)))) := by
  rcases stepBar_cases s with ⟨k, -, e⟩ | ⟨-, -, e⟩ | ⟨hf, hr, -⟩
  · simp [step, stepWith, e] at h
  · simp [step, stepWith, e] at h
  · rw [step, stepWith_open _ hf hr] at h
    refine ⟨hf, hr, ?_⟩
    rcases hw : fetch s with k | w
    · rw [hw] at h
      left; exact ⟨k, rfl, by simpa [finishStep] using h.symm⟩
    · rw [hw] at h
      change finishStep s (executeWord unknownOpcodePolicy w s.advancePc) = .next t at h
      right
      refine ⟨w, rfl, ?_⟩
      rcases ho : executeWord unknownOpcodePolicy w s.advancePc with u | k | r
      · rw [ho] at h; right; exact ⟨u, rfl, by simpa [finishStep] using h.symm⟩
      · rw [ho] at h; left; exact ⟨k, rfl, by simpa [finishStep] using h.symm⟩
      · rw [ho] at h; simp [finishStep] at h

/-- What the execute phase of a word is: the decoded instruction's meaning, or nothing at all (rules R94, R95). -/
theorem executeWord_cases (w : Word) (s : State) :
    (∃ i, decode w = .ok i ∧ executeWord unknownOpcodePolicy w s = exec i s) ∨
      (∃ e, decode w = .error e ∧ executeWord unknownOpcodePolicy w s = .next s) := by
  unfold executeWord
  rcases decode w with e | i
  · right; exact ⟨e, rfl, rfl⟩
  · left; exact ⟨i, rfl, rfl⟩

end Sys2Proof.Machine
end

