-- ==== Sys2Proof/Laws/Display.lean ====
section
/-! SUPPORT. What the sprite blitter does to each cell and to the collision (rules R192, R193, R196), and that it keeps
the cells 0 or 1 (rule R39). -/

namespace Sys2Proof.Machine

theorem Framebuffer.get_set (f : Framebuffer) (r r' : Fin 32) (c c' : Fin 64) (w : Byte) :
    Framebuffer.get (Framebuffer.set f r c w) r' c' = if r' = r ∧ c' = c then w else Framebuffer.get f r' c' := by
  unfold Framebuffer.get Framebuffer.set
  by_cases hr : r' = r
  · subst hr
    by_cases hc : c' = c
    · subst hc; simp
    · have : c.val ≠ c'.val := fun e => hc (Fin.ext e.symm)
      simp [hc, Vector.getElem_set_ne _ _ this]
  · have : r.val ≠ r'.val := fun e => hr (Fin.ext e.symm)
    simp [hr, Vector.getElem_set_ne _ _ this]

theorem Framebuffer.get_blank (r : Fin 32) (c : Fin 64) : Framebuffer.get Framebuffer.blank r c = 0#8 := by
  simp [Framebuffer.get, Framebuffer.blank]

/-- Two framebuffers with the same cells are equal. -/
theorem Framebuffer.ext_get {f g : Framebuffer} (h : ∀ r c, Framebuffer.get f r c = Framebuffer.get g r c) : f = g := by
  apply Vector.ext
  intro i hi
  apply Vector.ext
  intro j hj
  exact h ⟨i, hi⟩ ⟨j, hj⟩

/-- Well-formed means: each cell is 0 or 1 (rule R39). -/
theorem Framebuffer.wf_iff (f : Framebuffer) :
    f.wf = true ↔ ∀ r c, Framebuffer.get f r c = 0#8 ∨ Framebuffer.get f r c = 1#8 := by
  unfold Framebuffer.wf Framebuffer.get
  simp only [List.all_eq_true, Bool.or_eq_true, beq_iff_eq]
  constructor
  · intro h r c
    exact h _ (Vector.mem_toList_iff.2 (Vector.getElem_mem r.isLt)) _ (Vector.mem_toList_iff.2 (Vector.getElem_mem c.isLt))
  · intro h row hrow w hw
    obtain ⟨i, hi, rfl⟩ := Vector.mem_iff_getElem.1 (Vector.mem_toList_iff.1 hrow)
    obtain ⟨j, hj, rfl⟩ := Vector.mem_iff_getElem.1 (Vector.mem_toList_iff.1 hw)
    exact h ⟨i, hi⟩ ⟨j, hj⟩

/-- The effect of a drawing from `p` to `q` that XORs exactly the cells of `H`. -/
def Xors (H : Fin 32 → Fin 64 → Prop) (p q : Framebuffer × Bool) : Prop :=
  (∀ r c, H r c → Framebuffer.get q.1 r c = Framebuffer.get p.1 r c ^^^ 1#8) ∧
  (∀ r c, ¬H r c → Framebuffer.get q.1 r c = Framebuffer.get p.1 r c) ∧
  (q.2 = true ↔ p.2 = true ∨ ∃ r c, H r c ∧ Framebuffer.get p.1 r c = 1#8)

/-- Two drawings on disjoint cells, one after the other, draw on the cells of both. -/
theorem Xors.trans {H K : Fin 32 → Fin 64 → Prop} {p q u : Framebuffer × Bool} (h : Xors H p q) (k : Xors K q u)
    (hd : ∀ r c, H r c → ¬K r c) : Xors (fun r c => H r c ∨ K r c) p u := by
  obtain ⟨h1, h2, h3⟩ := h
  obtain ⟨k1, k2, k3⟩ := k
  have hK : ∀ r c, K r c → Framebuffer.get q.1 r c = Framebuffer.get p.1 r c := fun r c hk =>
    h2 r c (fun hh => hd r c hh hk)
  refine ⟨?_, ?_, ?_⟩
  · rintro r c (hh | hk)
    · rw [k2 r c (hd r c hh), h1 r c hh]
    · rw [k1 r c hk, hK r c hk]
  · intro r c hn
    rw [k2 r c (fun hk => hn (.inr hk)), h2 r c (fun hh => hn (.inl hh))]
  · rw [k3, h3]
    constructor
    · rintro ((hp | ⟨r, c, hh, hv⟩) | ⟨r, c, hk, hv⟩)
      · exact .inl hp
      · exact .inr ⟨r, c, .inl hh, hv⟩
      · exact .inr ⟨r, c, .inr hk, by rw [← hK r c hk]; exact hv⟩
    · rintro (hp | ⟨r, c, hh | hk, hv⟩)
      · exact .inl (.inl hp)
      · exact .inl (.inr ⟨r, c, hh, hv⟩)
      · exact .inr ⟨r, c, hk, by rw [hK r c hk]; exact hv⟩

theorem Xors.congr {H K : Fin 32 → Fin 64 → Prop} {p q : Framebuffer × Bool} (h : Xors H p q)
    (e : ∀ r c, H r c ↔ K r c) : Xors K p q := by
  have : H = K := funext fun r => funext fun c => propext (e r c)
  rwa [← this]

theorem Xors.refl_false {H : Fin 32 → Fin 64 → Prop} (p : Framebuffer × Bool) (h : ∀ r c, ¬H r c) : Xors H p p :=
  ⟨fun r c hh => absurd hh (h r c), fun _ _ _ => rfl,
    ⟨.inl, fun hh => hh.elim id fun ⟨r, c, hh, _⟩ => absurd hh (h r c)⟩⟩

theorem xorPixel_xors (p : Framebuffer × Bool) (r : Fin 32) (c : Fin 64) :
    Xors (fun r' c' => r' = r ∧ c' = c) p (xorPixel p r c) := by
  refine ⟨fun r' c' h => ?_, fun r' c' h => ?_, ?_⟩
  · obtain ⟨rfl, rfl⟩ := h
    simp [xorPixel, Framebuffer.get_set]
  · simp [xorPixel, Framebuffer.get_set, h]
  · simp [xorPixel]

/-- One sprite byte: the last `n` lanes of it (rule R196). -/
theorem blitRow_xors (r : Fin 32) (x0 : Nat) (b : Byte) (n : Nat) (hn : n ≤ 8) (p : Framebuffer × Bool) :
    Xors (fun r' c' => r' = r ∧ ∃ k, k < n ∧ b.getLsbD k = true ∧ c'.val = (x0 + (7 - k)) % 64) p
      (blitRow r x0 b n p) := by
  induction n generalizing p with
  | zero => exact Xors.refl_false p (by rintro r' c' ⟨-, k, hk, -⟩; omega)
  | succ n ih =>
    simp only [blitRow]
    have hlane : (Fin.ofNat 64 (x0 + (7 - n))).val = (x0 + (7 - n)) % 64 := rfl
    by_cases hb : b.getLsbD n = true
    · rw [if_pos hb]
      refine ((xorPixel_xors p r _).trans (ih (by omega) _) ?_).congr ?_
      · rintro r' c' ⟨rfl, rfl⟩ ⟨-, k, hk, -, hc⟩
        rw [hlane] at hc; omega
      · intro r' c'
        constructor
        · rintro (⟨rfl, rfl⟩ | ⟨rfl, k, hk, hkb, hc⟩)
          · exact ⟨rfl, n, by omega, hb, hlane⟩
          · exact ⟨rfl, k, by omega, hkb, hc⟩
        · rintro ⟨rfl, k, hk, hkb, hc⟩
          by_cases e : k = n
          · subst e; exact .inl ⟨rfl, Fin.ext (hc.trans hlane.symm)⟩
          · exact .inr ⟨rfl, k, by omega, hkb, hc⟩
    · rw [if_neg hb]
      refine (ih (by omega) p).congr ?_
      intro r' c'
      constructor
      · rintro ⟨rfl, k, hk, hkb, hc⟩; exact ⟨rfl, k, by omega, hkb, hc⟩
      · rintro ⟨rfl, k, hk, hkb, hc⟩
        have : k ≠ n := fun e => hb (e ▸ hkb)
        exact ⟨rfl, k, by omega, hkb, hc⟩

/-- The whole sprite, up to 32 rows: exactly the cells that it hits are XORed, and the collision is the OR over them
(rules R192, R193, R196). -/
theorem blit_xors (x0 y0 : Nat) (bs : List Byte) (hbs : bs.length ≤ 32) (p : Framebuffer × Bool) :
    Xors (SpriteHits (fun i => bs.getD i 0#8) bs.length x0 y0) p (blit x0 y0 bs p) := by
  induction bs generalizing y0 p with
  | nil => exact Xors.refl_false p (by rintro r c ⟨i, hi, -⟩; simp at hi)
  | cons b bs ih =>
    simp only [blit]
    have hrow : (Fin.ofNat 32 y0).val = y0 % 32 := rfl
    simp only [List.length_cons] at hbs
    refine ((blitRow_xors (Fin.ofNat 32 y0) x0 b 8 (by omega) p).trans (ih (y0 + 1) (by omega) _) ?_).congr ?_
    · rintro r c ⟨rfl, -⟩ ⟨i, hi, l, hl, -, hr, -⟩
      rw [hrow] at hr; omega
    · intro r c
      constructor
      · rintro (⟨rfl, k, hk, hkb, hc⟩ | ⟨i, hi, l, hl, hb, hr, hc⟩)
        · refine ⟨0, by simp, 7 - k, by omega, ?_, by rw [hrow]; rfl, hc⟩
          have : 7 - (7 - k) = k := by omega
          simpa [this] using hkb
        · exact ⟨i + 1, by simpa using hi, l, hl, by simpa using hb, by omega, hc⟩
      · rintro ⟨i, hi, l, hl, hb, hr, hc⟩
        rcases i with _ | i
        · left
          refine ⟨Fin.ext (by rw [hrow]; simpa using hr), 7 - l, by omega, by simpa using hb, ?_⟩
          have : 7 - (7 - l) = l := by omega
          rw [this]; exact hc
        · right
          exact ⟨i, by simpa using hi, l, hl, by simpa using hb, by omega, hc⟩

/-- `DrawSprite(x0, y0, bytes)` of rule R192, cell by cell. -/
theorem drawSpriteAt_xors (f : Framebuffer) (x0 y0 : Byte) (bs : List Byte) (hbs : bs.length ≤ 32) :
    Xors (SpriteHits (fun i => bs.getD i 0#8) bs.length x0.toNat y0.toNat) (f, false) (drawSpriteAt f x0 y0 bs) :=
  blit_xors x0.toNat y0.toNat bs hbs (f, false)

/-- A drawing keeps every cell 0 or 1 (rule R39). -/
theorem Xors.wf {H : Fin 32 → Fin 64 → Prop} {p q : Framebuffer × Bool} (h : Xors H p q) (hp : p.1.wf = true) :
    q.1.wf = true := by
  rw [Framebuffer.wf_iff] at hp ⊢
  intro r c
  by_cases hh : H r c
  · rw [h.1 r c hh]
    rcases hp r c with e | e <;> rw [e] <;> decide
  · rw [h.2.1 r c hh]; exact hp r c

theorem Framebuffer.wf_blank : Framebuffer.blank.wf = true :=
  (Framebuffer.wf_iff _).2 fun r c => .inl (Framebuffer.get_blank r c)

/-- The state that a fault leaves is well-formed (rules R39, R232). -/
theorem enterFault_wf (k : Fault) (s : State) : (enterFault k s).wf = true := by
  have hm : (enterFault k s).mem.wf = true :=
    Memory.wf_ofFun (fun a => Config.unspecifiedByte s.draws (.mem a))
  have hf : (enterFault k s).fb.wf = true := by
    rw [Framebuffer.wf_iff]
    intro r c
    simp only [enterFault, unspecifiedState, Framebuffer.get, Vector.getElem_ofFn]
    split
    · exact .inr rfl
    · exact .inl rfl
  simp only [State.wf, hm, hf, Bool.and_self]

end Sys2Proof.Machine
end

