-- ==== Sys2Proof/Laws/Frame.lean ====
section
/-! SUPPORT. The algebra of "changes only", the frame of each update of the state, and what a meaning that may raise a
fault can answer as its next state. -/

namespace Sys2Proof.Machine

theorem ChangesOnly.refl (P : Part → Prop) (s : State) : ChangesOnly P s s := by
  intro p _; cases p <;> rfl

theorem ChangesOnly.trans {P : Part → Prop} {s t u : State} (h : ChangesOnly P s t) (k : ChangesOnly P t u) :
    ChangesOnly P s u := by
  intro p hp
  have a := h p hp
  have b := k p hp
  cases p <;> exact Eq.trans b a

theorem ChangesOnly.mono {P Q : Part → Prop} {s t : State} (h : ChangesOnly P s t) (hPQ : ∀ p, P p → Q p) :
    ChangesOnly Q s t := fun p hp => h p (fun hh => hp (hPQ p hh))

/-! Frames of the updates. -/

theorem State.setReg_frame (s : State) (x : Reg) (w : Byte) : ChangesOnly (fun p => p = .reg x) s (s.setReg x w) := by
  intro p hp
  cases p with
  | reg y =>
    have : y ≠ x := fun e => hp (by rw [e])
    simp [Part.Same, State.reg_setReg, this]
  | _ => rfl

theorem State.setFlag_frame (s : State) (w : Byte) : ChangesOnly (fun p => p = .reg regF) s (s.setFlag w) :=
  State.setReg_frame s regF w

theorem State.setByte_frame (s : State) (a : Nat) (w : Byte) : ChangesOnly (fun p => p = .byte a) s (s.setByte a w) := by
  intro p hp
  cases p with
  | byte b =>
    have : a ≠ b := fun e => hp (by rw [e])
    simp [Part.Same, State.byte_setByte, this]
  | _ => rfl

theorem State.setPc_frame (s : State) (u : Word) : ChangesOnly (fun p => p = .pc) s (s.setPc u) := by
  intro p hp; cases p <;> first | rfl | exact absurd rfl hp

theorem State.skipIf_frame (s : State) (c : Bool) : ChangesOnly (fun p => p = .pc) s (s.skipIf c) := by
  cases c
  · exact ChangesOnly.refl _ s
  · exact State.setPc_frame s _

theorem State.setIndex_frame (s : State) (u : Word) : ChangesOnly (fun p => p = .index) s (s.setIndex u) := by
  intro p hp; cases p <;> first | rfl | exact absurd rfl hp

theorem State.setDt_frame (s : State) (w : Byte) : ChangesOnly (fun p => p = .dt) s (s.setDt w) := by
  intro p hp; cases p <;> first | rfl | exact absurd rfl hp

theorem State.setSt_frame (s : State) (w : Byte) : ChangesOnly (fun p => p = .st) s (s.setSt w) := by
  intro p hp; cases p <;> first | rfl | exact absurd rfl hp

theorem State.setRedraw_frame (s : State) (b : Bool) : ChangesOnly (fun p => p = .redraw) s (s.setRedraw b) := by
  intro p hp; cases p <;> first | rfl | exact absurd rfl hp

theorem State.setFb_frame (s : State) (f : Framebuffer) :
    ChangesOnly (fun p => ∃ r c, p = .pixel r c) s (s.setFb f) := by
  intro p hp; cases p <;> first | rfl | exact absurd ⟨_, _, rfl⟩ hp

theorem State.setKey_frame (s : State) (k : Fin 16) (b : Bool) : ChangesOnly (fun p => p = .key k) s (s.setKey k b) := by
  intro p hp
  cases p with
  | key j =>
    have : k.val ≠ j.val := fun e => hp (by rw [Fin.ext e])
    simp [Part.Same, State.keyDown, Vector.getElem_set_ne _ _ this]
  | _ => rfl

theorem drawRandom_frame (s : State) : ChangesOnly (fun p => p = .draws) s (drawRandom s).2 := by
  intro p hp; cases p <;> first | rfl | exact absurd rfl hp

theorem timerTick_frame (s : State) : ChangesOnly (fun p => p = .dt ∨ p = .st) s (timerTick s) := by
  intro p hp; cases p <;> first | rfl | exact absurd (.inl rfl) hp | exact absurd (.inr rfl) hp

/-- A block write that does not fault changes only the bytes of the block. -/
theorem writeBlock_frame {s t : State} {a : Nat} {bs : List Byte} (h : writeBlock s a bs = .ok t) :
    ChangesOnly (fun p => ∃ c, a ≤ c ∧ c < a + bs.length ∧ p = .byte c) s t := by
  rcases writeBlock_spec s a bs with ⟨-, m, hm, -, hg⟩ | ⟨-, hm⟩
  · rw [hm] at h
    injection h with h
    subst h
    intro p hp
    cases p with
    | byte c =>
      show m.get c = s.mem.get c
      rw [hg, dif_neg (fun hh => hp ⟨c, hh.1, hh.2, rfl⟩)]
    | _ => rfl
  · rw [hm] at h; cases h

/-! What a meaning that raises can answer. -/

/-- A meaning that raises answers a next state only from a result without fault. -/
theorem raising_eq_next {r : Except Fault State} {t : State} (h : raising r = .next t) : r = .ok t := by
  cases r with
  | ok u => rw [raising_ok] at h; injection h with h; rw [h]
  | error k => cases h

/-- Call's next state (rule R123). -/
theorem execCall_next {s t : State} {nnn : Addr12} (h : execCall nnn s = .next t) : ∃ hlt : s.sp.val < 16,
    t = State.setPc { s with stack := s.stack.set s.sp.val s.pc hlt, sp := ⟨s.sp.val + 1, by omega⟩ }
      (addrOperand nnn) := by
  rcases pushStack_cases s s.pc with ⟨-, e⟩ | ⟨hlt, e⟩ <;> simp [execCall, e, Except.map] at h
  exact ⟨hlt, h.symm⟩

/-- Return's next state (rule R121). -/
theorem execReturn_next {s t : State} (h : execReturn s = .next t) : ∃ hlt : s.sp.val - 1 < 16, s.sp.val ≠ 0 ∧
    t = State.setPc { s with sp := ⟨s.sp.val - 1, by omega⟩ } (s.stack[s.sp.val - 1]) := by
  rcases popStack_cases s with ⟨-, e⟩ | ⟨hlt, hne, e⟩ <;> simp [execReturn, e, Except.map] at h
  exact ⟨hlt, hne, h.symm⟩

/-- The next state of the two key skips (rules R211, R212). -/
theorem execSkipIfKeyDown_next {s t : State} {x : Reg} (h : execSkipIfKeyDown x s = .next t) :
    ∃ hk : (s.reg x).toNat < 16, t = s.skipIf (s.keyDown ⟨(s.reg x).toNat, hk⟩) := by
  rcases keyOperand_cases s x with ⟨-, e⟩ | ⟨hk, e⟩ <;> simp [execSkipIfKeyDown, e, Except.map] at h
  exact ⟨hk, h.symm⟩

theorem execSkipIfKeyUp_next {s t : State} {x : Reg} (h : execSkipIfKeyUp x s = .next t) :
    ∃ hk : (s.reg x).toNat < 16, t = s.skipIf (!s.keyDown ⟨(s.reg x).toNat, hk⟩) := by
  rcases keyOperand_cases s x with ⟨-, e⟩ | ⟨hk, e⟩ <;> simp [execSkipIfKeyUp, e, Except.map] at h
  exact ⟨hk, h.symm⟩

/-- Wait-for-key's next state (rule R214). -/
theorem execWaitForKey_next {s t : State} {x : Reg} (h : execWaitForKey x s = .next t) :
    (s.lowestKey = none ∧ t = s.retreatPc) ∨ ∃ k, s.lowestKey = some k ∧ t = s.setReg x (BitVec.ofNat 8 k) := by
  unfold execWaitForKey at h
  split at h <;> injection h with h
  · left; exact ⟨by assumption, h.symm⟩
  · right; exact ⟨_, by assumption, h.symm⟩

/-- The next state of the two storing instructions differs in memory alone, which stays in canonical form. -/
theorem raising_writeBlock_next {s t : State} {a : Nat} {bs : List Byte} (h : raising (writeBlock s a bs) = .next t) :
    ∃ m, t = { s with mem := m } ∧ (s.mem.wf = true → m.wf = true) := by
  have h := raising_eq_next h
  rcases writeBlock_spec s a bs with ⟨-, m, hm, hw, -⟩ | ⟨-, hm⟩
  · rw [hm] at h; injection h with h; exact ⟨m, h.symm, hw⟩
  · rw [hm] at h; cases h

/-- Load-registers' next state differs in the register file alone (rule R175). -/
theorem execLoadRegisters_next {s t : State} {x : Reg} (h : execLoadRegisters x s = .next t) :
    indexAddr s + x.toNat ≤ 0xFFF ∧ ∃ v, t = { s with v := v } ∧ ∀ (i : Nat) (hi : i < 16),
      v[i] = if i ≤ x.toNat then s.byte (indexAddr s + i) else s.v[i] := by
  have h := raising_eq_next h
  have e := readBlock_eq s (indexAddr s) (x.toNat + 1)
  split at e <;> simp [e, Except.map] at h
  obtain ⟨v, hv, hg⟩ := s.setRegsFrom_eq 0 ((List.range (x.toNat + 1)).map (fun k => s.byte (indexAddr s + k)))
  rw [hv] at h
  refine ⟨by omega, v, h.symm, fun i hi => ?_⟩
  rw [hg i hi]
  by_cases hx : i ≤ x.toNat
  · rw [if_pos hx, dif_pos (by simp; omega)]; simp
  · rw [if_neg hx, dif_neg (by simp; omega)]

/-- Draw-sprite's next state (rules R192, R195). -/
theorem execDrawSprite_next {s t : State} {x y : Reg} {n : Nibble} (h : execDrawSprite x y n s = .next t) :
    (n.toNat = 0 ∨ indexAddr s + n.toNat ≤ 0x1000) ∧ ∃ q : Framebuffer × Bool,
      t = ((s.setFb q.1).setFlag (boolBit q.2)).setRedraw true ∧
      Xors (SpriteHits (fun i => s.byte (indexAddr s + i)) n.toNat (s.reg x).toNat (s.reg y).toNat) (s.fb, false) q := by
  have h := raising_eq_next h
  have e := spriteOperand_eq s n
  have hn := n.isLt
  split at e
  · rename_i hfit
    rw [e] at h
    injection h with h
    refine ⟨hfit, _, h.symm, (drawSpriteAt_xors s.fb (s.reg x) (s.reg y) _ (by simp; omega)).congr fun r c => ?_⟩
    rw [List.length_map, List.length_range]
    have hbyte : ∀ i, i < n.toNat →
        ((List.range n.toNat).map (fun k => s.byte (indexAddr s + k))).getD i 0#8 = s.byte (indexAddr s + i) :=
      fun i hi => by simp [List.getD, hi]
    constructor <;> rintro ⟨i, hi, l, hl, hb, hh⟩
    · exact ⟨i, hi, l, hl, by simpa only [hbyte i hi] using hb, hh⟩
    · exact ⟨i, hi, l, hl, by simpa only [hbyte i hi] using hb, hh⟩
  · rw [e] at h; cases h

end Sys2Proof.Machine
end

