-- ==== Sys2Proof/Laws/PerInstr.lean ====
section
/-! SUPPORT. Statements per instruction. Family EncodingBits: the encoding of an instruction has, on the bits of its
row's mask, the row's match value (spec/opcode_table.json, rule R73). -/

namespace Sys2Proof.Laws

/-- The mask of each row of spec/opcode_table.json: the bits that the decoder compares (rule R74). -/
def tableMask : Instr → Word
  | .clearScreen => 0xFFFF#16
  | .ret => 0xFFFF#16
  | .jump _ => 0xF000#16
  | .call _ => 0xF000#16
  | .skipEqImm _ _ => 0xF000#16
  | .skipNeqImm _ _ => 0xF000#16
  | .skipEqReg _ _ => 0xF00F#16
  | .loadImm _ _ => 0xF000#16
  | .addImm _ _ => 0xF000#16
  | .move _ _ => 0xF00F#16
  | .orReg _ _ => 0xF00F#16
  | .andReg _ _ => 0xF00F#16
  | .xorReg _ _ => 0xF00F#16
  | .addReg _ _ => 0xF00F#16
  | .sub _ _ => 0xF00F#16
  | .shiftRight _ _ => 0xF00F#16
  | .subn _ _ => 0xF00F#16
  | .shiftLeft _ _ => 0xF00F#16
  | .skipNeqReg _ _ => 0xF00F#16
  | .setIndex _ => 0xF000#16
  | .jumpOffset _ => 0xF000#16
  | .randomAnd _ _ => 0xF000#16
  | .drawSprite _ _ _ => 0xF000#16
  | .skipIfKeyDown _ => 0xF0FF#16
  | .skipIfKeyUp _ => 0xF0FF#16
  | .getDelayTimer _ => 0xF0FF#16
  | .waitForKey _ => 0xF0FF#16
  | .setDelayTimer _ => 0xF0FF#16
  | .setSoundTimer _ => 0xF0FF#16
  | .addToIndex _ => 0xF0FF#16
  | .indexToFontGlyph _ => 0xF0FF#16
  | .storeBcd _ => 0xF0FF#16
  | .storeRegisters _ => 0xF0FF#16
  | .loadRegisters _ => 0xF0FF#16

/-- The match value of each row of spec/opcode_table.json. -/
def tableMatch : Instr → Word
  | .clearScreen => 0x00E0#16
  | .ret => 0x00EE#16
  | .jump _ => 0x1000#16
  | .call _ => 0x2000#16
  | .skipEqImm _ _ => 0x3000#16
  | .skipNeqImm _ _ => 0x4000#16
  | .skipEqReg _ _ => 0x5000#16
  | .loadImm _ _ => 0x6000#16
  | .addImm _ _ => 0x7000#16
  | .move _ _ => 0x8000#16
  | .orReg _ _ => 0x8001#16
  | .andReg _ _ => 0x8002#16
  | .xorReg _ _ => 0x8003#16
  | .addReg _ _ => 0x8004#16
  | .sub _ _ => 0x8005#16
  | .shiftRight _ _ => 0x8006#16
  | .subn _ _ => 0x8007#16
  | .shiftLeft _ _ => 0x800E#16
  | .skipNeqReg _ _ => 0x9000#16
  | .setIndex _ => 0xA000#16
  | .jumpOffset _ => 0xB000#16
  | .randomAnd _ _ => 0xC000#16
  | .drawSprite _ _ _ => 0xD000#16
  | .skipIfKeyDown _ => 0xE09E#16
  | .skipIfKeyUp _ => 0xE0A1#16
  | .getDelayTimer _ => 0xF007#16
  | .waitForKey _ => 0xF00A#16
  | .setDelayTimer _ => 0xF015#16
  | .setSoundTimer _ => 0xF018#16
  | .addToIndex _ => 0xF01E#16
  | .indexToFontGlyph _ => 0xF029#16
  | .storeBcd _ => 0xF033#16
  | .storeRegisters _ => 0xF055#16
  | .loadRegisters _ => 0xF065#16

theorem wordNnn_and (op op' : Nibble) (nnn nnn' : Addr12) :
    wordNnn op nnn &&& wordNnn op' nnn' = wordNnn (op &&& op') (nnn &&& nnn') := BitVec.and_append

theorem wordXkk_and (op op' x x' : Nibble) (kk kk' : Byte) :
    wordXkk op x kk &&& wordXkk op' x' kk' = wordXkk (op &&& op') (x &&& x') (kk &&& kk') :=
  (wordNnn_and _ _ _ _).trans (congrArg (wordNnn _) BitVec.and_append)

theorem wordXyn_and (op op' x x' y y' n n' : Nibble) :
    wordXyn op x y n &&& wordXyn op' x' y' n' = wordXyn (op &&& op') (x &&& x') (y &&& y') (n &&& n') :=
  (wordXkk_and _ _ _ _ _ _).trans (congrArg (wordXkk _ _) BitVec.and_append)

/-- A word with op alone compared (mask 0xF000). -/
theorem and_mask_op (op : Nibble) (nnn : Addr12) : wordNnn op nnn &&& 0xF000#16 = wordNnn op 0 := by
  have h : (0xF000#16) = wordNnn 0xF#4 0#12 := by decide
  rw [h, wordNnn_and]
  congr 1
  · exact BitVec.and_allOnes
  · exact BitVec.and_zero

/-- A word with op and kk compared (mask 0xF0FF). -/
theorem and_mask_op_kk (op x : Nibble) (kk : Byte) : wordXkk op x kk &&& 0xF0FF#16 = wordXkk op 0 kk := by
  have h : (0xF0FF#16) = wordXkk 0xF#4 0#4 0xFF#8 := by decide
  rw [h, wordXkk_and]
  congr 1
  · exact BitVec.and_allOnes
  · exact BitVec.and_zero
  · exact BitVec.and_allOnes

/-- A word with op and n compared (mask 0xF00F). -/
theorem and_mask_op_n (op x y n : Nibble) : wordXyn op x y n &&& 0xF00F#16 = wordXyn op 0 0 n := by
  have h : (0xF00F#16) = wordXyn 0xF#4 0#4 0#4 0xF#4 := by decide
  rw [h, wordXyn_and]
  congr 1
  · exact BitVec.and_allOnes
  · exact BitVec.and_zero
  · exact BitVec.and_zero
  · exact BitVec.and_allOnes

end Sys2Proof.Laws

/-- The encoding of `i` has its table row's fixed bits (rule R73). -/
def Sys2Proof.Laws.EncodingBits.Statement (i : Sys2Proof.Instr) : Prop :=
  Sys2Proof.encode i &&& Sys2Proof.Laws.tableMask i = Sys2Proof.Laws.tableMatch i

theorem Sys2Proof.Laws.EncodingBits.clearScreen :
    Sys2Proof.Laws.EncodingBits.Statement (.clearScreen) := rfl

theorem Sys2Proof.Laws.EncodingBits.ret :
    Sys2Proof.Laws.EncodingBits.Statement (.ret) := rfl

theorem Sys2Proof.Laws.EncodingBits.jump (nnn : Sys2Proof.Addr12) :
    Sys2Proof.Laws.EncodingBits.Statement (.jump nnn) := (Sys2Proof.Laws.and_mask_op _ _).trans rfl

theorem Sys2Proof.Laws.EncodingBits.call (nnn : Sys2Proof.Addr12) :
    Sys2Proof.Laws.EncodingBits.Statement (.call nnn) := (Sys2Proof.Laws.and_mask_op _ _).trans rfl

theorem Sys2Proof.Laws.EncodingBits.skipEqImm (x : Sys2Proof.Reg) (kk : Sys2Proof.Byte) :
    Sys2Proof.Laws.EncodingBits.Statement (.skipEqImm x kk) := (Sys2Proof.Laws.and_mask_op _ _).trans rfl

theorem Sys2Proof.Laws.EncodingBits.skipNeqImm (x : Sys2Proof.Reg) (kk : Sys2Proof.Byte) :
    Sys2Proof.Laws.EncodingBits.Statement (.skipNeqImm x kk) := (Sys2Proof.Laws.and_mask_op _ _).trans rfl

theorem Sys2Proof.Laws.EncodingBits.skipEqReg (x : Sys2Proof.Reg) (y : Sys2Proof.Reg) :
    Sys2Proof.Laws.EncodingBits.Statement (.skipEqReg x y) := (Sys2Proof.Laws.and_mask_op_n _ _ _ _).trans rfl

theorem Sys2Proof.Laws.EncodingBits.loadImm (x : Sys2Proof.Reg) (kk : Sys2Proof.Byte) :
    Sys2Proof.Laws.EncodingBits.Statement (.loadImm x kk) := (Sys2Proof.Laws.and_mask_op _ _).trans rfl

theorem Sys2Proof.Laws.EncodingBits.addImm (x : Sys2Proof.Reg) (kk : Sys2Proof.Byte) :
    Sys2Proof.Laws.EncodingBits.Statement (.addImm x kk) := (Sys2Proof.Laws.and_mask_op _ _).trans rfl

theorem Sys2Proof.Laws.EncodingBits.move (x : Sys2Proof.Reg) (y : Sys2Proof.Reg) :
    Sys2Proof.Laws.EncodingBits.Statement (.move x y) := (Sys2Proof.Laws.and_mask_op_n _ _ _ _).trans rfl

theorem Sys2Proof.Laws.EncodingBits.orReg (x : Sys2Proof.Reg) (y : Sys2Proof.Reg) :
    Sys2Proof.Laws.EncodingBits.Statement (.orReg x y) := (Sys2Proof.Laws.and_mask_op_n _ _ _ _).trans rfl

theorem Sys2Proof.Laws.EncodingBits.andReg (x : Sys2Proof.Reg) (y : Sys2Proof.Reg) :
    Sys2Proof.Laws.EncodingBits.Statement (.andReg x y) := (Sys2Proof.Laws.and_mask_op_n _ _ _ _).trans rfl

theorem Sys2Proof.Laws.EncodingBits.xorReg (x : Sys2Proof.Reg) (y : Sys2Proof.Reg) :
    Sys2Proof.Laws.EncodingBits.Statement (.xorReg x y) := (Sys2Proof.Laws.and_mask_op_n _ _ _ _).trans rfl

theorem Sys2Proof.Laws.EncodingBits.addReg (x : Sys2Proof.Reg) (y : Sys2Proof.Reg) :
    Sys2Proof.Laws.EncodingBits.Statement (.addReg x y) := (Sys2Proof.Laws.and_mask_op_n _ _ _ _).trans rfl

theorem Sys2Proof.Laws.EncodingBits.sub (x : Sys2Proof.Reg) (y : Sys2Proof.Reg) :
    Sys2Proof.Laws.EncodingBits.Statement (.sub x y) := (Sys2Proof.Laws.and_mask_op_n _ _ _ _).trans rfl

theorem Sys2Proof.Laws.EncodingBits.shiftRight (x : Sys2Proof.Reg) (y : Sys2Proof.Reg) :
    Sys2Proof.Laws.EncodingBits.Statement (.shiftRight x y) := (Sys2Proof.Laws.and_mask_op_n _ _ _ _).trans rfl

theorem Sys2Proof.Laws.EncodingBits.subn (x : Sys2Proof.Reg) (y : Sys2Proof.Reg) :
    Sys2Proof.Laws.EncodingBits.Statement (.subn x y) := (Sys2Proof.Laws.and_mask_op_n _ _ _ _).trans rfl

theorem Sys2Proof.Laws.EncodingBits.shiftLeft (x : Sys2Proof.Reg) (y : Sys2Proof.Reg) :
    Sys2Proof.Laws.EncodingBits.Statement (.shiftLeft x y) := (Sys2Proof.Laws.and_mask_op_n _ _ _ _).trans rfl

theorem Sys2Proof.Laws.EncodingBits.skipNeqReg (x : Sys2Proof.Reg) (y : Sys2Proof.Reg) :
    Sys2Proof.Laws.EncodingBits.Statement (.skipNeqReg x y) := (Sys2Proof.Laws.and_mask_op_n _ _ _ _).trans rfl

theorem Sys2Proof.Laws.EncodingBits.setIndex (nnn : Sys2Proof.Addr12) :
    Sys2Proof.Laws.EncodingBits.Statement (.setIndex nnn) := (Sys2Proof.Laws.and_mask_op _ _).trans rfl

theorem Sys2Proof.Laws.EncodingBits.jumpOffset (nnn : Sys2Proof.Addr12) :
    Sys2Proof.Laws.EncodingBits.Statement (.jumpOffset nnn) := (Sys2Proof.Laws.and_mask_op _ _).trans rfl

theorem Sys2Proof.Laws.EncodingBits.randomAnd (x : Sys2Proof.Reg) (kk : Sys2Proof.Byte) :
    Sys2Proof.Laws.EncodingBits.Statement (.randomAnd x kk) := (Sys2Proof.Laws.and_mask_op _ _).trans rfl

theorem Sys2Proof.Laws.EncodingBits.drawSprite (x : Sys2Proof.Reg) (y : Sys2Proof.Reg) (n : Sys2Proof.Nibble) :
    Sys2Proof.Laws.EncodingBits.Statement (.drawSprite x y n) := (Sys2Proof.Laws.and_mask_op _ _).trans rfl

theorem Sys2Proof.Laws.EncodingBits.skipIfKeyDown (x : Sys2Proof.Reg) :
    Sys2Proof.Laws.EncodingBits.Statement (.skipIfKeyDown x) := (Sys2Proof.Laws.and_mask_op_kk _ _ _).trans rfl

theorem Sys2Proof.Laws.EncodingBits.skipIfKeyUp (x : Sys2Proof.Reg) :
    Sys2Proof.Laws.EncodingBits.Statement (.skipIfKeyUp x) := (Sys2Proof.Laws.and_mask_op_kk _ _ _).trans rfl

theorem Sys2Proof.Laws.EncodingBits.getDelayTimer (x : Sys2Proof.Reg) :
    Sys2Proof.Laws.EncodingBits.Statement (.getDelayTimer x) := (Sys2Proof.Laws.and_mask_op_kk _ _ _).trans rfl

theorem Sys2Proof.Laws.EncodingBits.waitForKey (x : Sys2Proof.Reg) :
    Sys2Proof.Laws.EncodingBits.Statement (.waitForKey x) := (Sys2Proof.Laws.and_mask_op_kk _ _ _).trans rfl

theorem Sys2Proof.Laws.EncodingBits.setDelayTimer (x : Sys2Proof.Reg) :
    Sys2Proof.Laws.EncodingBits.Statement (.setDelayTimer x) := (Sys2Proof.Laws.and_mask_op_kk _ _ _).trans rfl

theorem Sys2Proof.Laws.EncodingBits.setSoundTimer (x : Sys2Proof.Reg) :
    Sys2Proof.Laws.EncodingBits.Statement (.setSoundTimer x) := (Sys2Proof.Laws.and_mask_op_kk _ _ _).trans rfl

theorem Sys2Proof.Laws.EncodingBits.addToIndex (x : Sys2Proof.Reg) :
    Sys2Proof.Laws.EncodingBits.Statement (.addToIndex x) := (Sys2Proof.Laws.and_mask_op_kk _ _ _).trans rfl

theorem Sys2Proof.Laws.EncodingBits.indexToFontGlyph (x : Sys2Proof.Reg) :
    Sys2Proof.Laws.EncodingBits.Statement (.indexToFontGlyph x) := (Sys2Proof.Laws.and_mask_op_kk _ _ _).trans rfl

theorem Sys2Proof.Laws.EncodingBits.storeBcd (x : Sys2Proof.Reg) :
    Sys2Proof.Laws.EncodingBits.Statement (.storeBcd x) := (Sys2Proof.Laws.and_mask_op_kk _ _ _).trans rfl

theorem Sys2Proof.Laws.EncodingBits.storeRegisters (x : Sys2Proof.Reg) :
    Sys2Proof.Laws.EncodingBits.Statement (.storeRegisters x) := (Sys2Proof.Laws.and_mask_op_kk _ _ _).trans rfl

theorem Sys2Proof.Laws.EncodingBits.loadRegisters (x : Sys2Proof.Reg) :
    Sys2Proof.Laws.EncodingBits.Statement (.loadRegisters x) := (Sys2Proof.Laws.and_mask_op_kk _ _ _).trans rfl
end

