-- ==== Sys2Proof/Laws/Transactions.lean ====
section
/-! SUPPORT. What each of the host's transactions can do. -/

namespace Sys2Proof.Machine

@[simp] theorem restoredLatch_some (k : Fault) (c : Option Fault) : restoredLatch (some k) c = some k := rfl
@[simp] theorem restoredLatch_none (c : Option Fault) : restoredLatch none c = c := rfl

/-- No latch is set after a Restore exactly if none was set and the restored state has none (rules R31, R266). -/
theorem restoredLatch_eq_none (r c : Option Fault) : restoredLatch r c = none ↔ r = none ∧ c = none := by
  cases r <;> simp

/-- What Restore can do (rule R105). -/
theorem restore_cases (u s : State) :
    (u.wf = false ∧ restore u s = .refused .illFormedSnapshot) ∨
      (u.wf = true ∧ restore u s =
        .next { u with fault := restoredLatch u.fault s.fault, draws := s.draws, wasReset := s.wasReset }) := by
  unfold restore
  rcases h : u.wf with _ | _ <;> simp

/-- What LoadProgram can do (rule R101). -/
theorem loadProgram_cases (b : List Byte) (s : State) :
    (0xE00 < b.length ∧ loadProgram b s = .refused .programTooLong) ∨
      (b.length ≤ 0xE00 ∧ loadProgram b s = .next (s.placeBytes 0x200 b)) := by
  unfold loadProgram
  split
  · left; exact ⟨by omega, rfl⟩
  · right; exact ⟨by omega, rfl⟩

/-- What KeyDown and KeyUp can do (rule R102). -/
theorem keyEvent_cases (k : Nat) (down : Bool) (s : State) :
    (15 < k ∧ keyEvent k down s = .refused .noSuchKey) ∨
      ∃ h : k < 16, keyEvent k down s = .next (s.setKey ⟨k, h⟩ down) := by
  unfold keyEvent
  split
  · rename_i h; right; exact ⟨h, rfl⟩
  · left; exact ⟨by omega, rfl⟩

end Sys2Proof.Machine
end

