-- ==== Sys2Proof/Tests/Slice0.lean ====
section
/-! SUPPORT. The model's own tests: words written from the encoding column of rule R73, the WellFormed smoke test, one
step on small states with the results of 95_test_vectors.md (each comment names its row), and a witness for the
hypotheses of every statement that has some. -/

namespace Sys2Proof.Tests

open Sys2Proof.Machine

/-! Decoding: every constructor from a word written out from the encoding of its row in rule R73. -/

theorem test_decode_control :
    decode 0b0000_0000_1110_1110#16 = .ok .ret ∧ decode 0b0001_1010_1011_1100#16 = .ok (.jump 0xABC#12) ∧
    decode 0b0010_1010_1011_1100#16 = .ok (.call 0xABC#12) ∧
    decode 0b0011_0101_1100_0011#16 = .ok (.skipEqImm 0x5#4 0xC3#8) ∧
    decode 0b0100_0101_1100_0011#16 = .ok (.skipNeqImm 0x5#4 0xC3#8) ∧
    decode 0b0101_0011_1010_0000#16 = .ok (.skipEqReg 0x3#4 0xA#4) ∧
    decode 0b1001_0011_1010_0000#16 = .ok (.skipNeqReg 0x3#4 0xA#4) ∧
    decode 0b1011_0001_0010_0011#16 = .ok (.jumpOffset 0x123#12) := by decide

theorem test_decode_alu :
    decode 0b0110_0001_1111_0000#16 = .ok (.loadImm 0x1#4 0xF0#8) ∧
    decode 0b0111_0001_1111_0000#16 = .ok (.addImm 0x1#4 0xF0#8) ∧
    decode 0b1000_0011_1010_0000#16 = .ok (.move 0x3#4 0xA#4) ∧
    decode 0b1000_0011_1010_0001#16 = .ok (.orReg 0x3#4 0xA#4) ∧
    decode 0b1000_0011_1010_0010#16 = .ok (.andReg 0x3#4 0xA#4) ∧
    decode 0b1000_0011_1010_0011#16 = .ok (.xorReg 0x3#4 0xA#4) ∧
    decode 0b1000_0011_1010_0100#16 = .ok (.addReg 0x3#4 0xA#4) ∧
    decode 0b1000_0011_1010_0101#16 = .ok (.sub 0x3#4 0xA#4) ∧
    decode 0b1000_0011_1010_0110#16 = .ok (.shiftRight 0x3#4 0xA#4) ∧
    decode 0b1000_0011_1010_0111#16 = .ok (.subn 0x3#4 0xA#4) ∧
    decode 0b1000_0011_1010_1110#16 = .ok (.shiftLeft 0x3#4 0xA#4) ∧
    decode 0b1100_0001_1111_0000#16 = .ok (.randomAnd 0x1#4 0xF0#8) := by decide

theorem test_decode_index_memory_display :
    decode 0b0000_0000_1110_0000#16 = .ok .clearScreen ∧ decode 0b1010_1010_1011_1100#16 = .ok (.setIndex 0xABC#12) ∧
    decode 0b1101_0011_1010_0101#16 = .ok (.drawSprite 0x3#4 0xA#4 0x5#4) ∧
    decode 0b1111_0111_0001_1110#16 = .ok (.addToIndex 0x7#4) ∧
    decode 0b1111_0111_0010_1001#16 = .ok (.indexToFontGlyph 0x7#4) ∧
    decode 0b1111_0111_0011_0011#16 = .ok (.storeBcd 0x7#4) ∧
    decode 0b1111_0111_0101_0101#16 = .ok (.storeRegisters 0x7#4) ∧
    decode 0b1111_0111_0110_0101#16 = .ok (.loadRegisters 0x7#4) := by decide

theorem test_decode_keypad_timers :
    decode 0b1110_0111_1001_1110#16 = .ok (.skipIfKeyDown 0x7#4) ∧
    decode 0b1110_0111_1010_0001#16 = .ok (.skipIfKeyUp 0x7#4) ∧
    decode 0b1111_0111_0000_0111#16 = .ok (.getDelayTimer 0x7#4) ∧
    decode 0b1111_0111_0000_1010#16 = .ok (.waitForKey 0x7#4) ∧
    decode 0b1111_0111_0001_0101#16 = .ok (.setDelayTimer 0x7#4) ∧
    decode 0b1111_0111_0001_1000#16 = .ok (.setSoundTimer 0x7#4) := by decide

/-- The bytes stand big-endian (rule R54), and one byte is no instruction (rule R70). -/
theorem test_decode_bytes :
    decodeBytes [0xA2#8, 0xF0#8, 0x60#8] = .ok (.setIndex 0x2F0#12, [0x60#8]) ∧
    decodeBytes [0xA2#8] = .error .truncated ∧ decodeTableWord 16 0xF265 = some (.loadRegisters 0x2#4) ∧
    decodeTableWord 16 0x5121 = none := by decide

/-! WellFormed: one ill-formed word for each row of the table of rule R75, refused by the check and by the decoder. -/

theorem test_wf_0xxx : wellFormedWord 0x0123#16 = false ∧ wellFormedWord 0x00E1#16 = false ∧
    wellFormedWord 0x00E0#16 = true ∧ wellFormedWord 0x00EE#16 = true := by decide
theorem test_wf_5xyn : wellFormedWord 0x5121#16 = false ∧ wellFormedWord 0x5120#16 = true := by decide
theorem test_wf_8xyn : wellFormedWord 0x8128#16 = false ∧ wellFormedWord 0x812D#16 = false ∧
    wellFormedWord 0x812F#16 = false ∧ wellFormedWord 0x812E#16 = true := by decide
theorem test_wf_9xyn : wellFormedWord 0x9121#16 = false ∧ wellFormedWord 0x9120#16 = true := by decide
theorem test_wf_Exkk : wellFormedWord 0xE19F#16 = false ∧ wellFormedWord 0xE19E#16 = true := by decide
theorem test_wf_Fxkk : wellFormedWord 0xF1FF#16 = false ∧ wellFormedWord 0xF165#16 = true := by decide
theorem test_wf_decode_rejects : decode 0x0123#16 = .error (.unknownWord 0x0123#16) ∧
    decode 0x8128#16 = .error (.unknownWord 0x8128#16) ∧ decode 0xF1FF#16 = .error (.unknownWord 0xF1FF#16) := by decide

/-! Building states, and one step. -/

/-- The machine after reset. -/
def base : State := State.reset

/-- V0 and V1, the two registers most tests use. -/
def v01 (a b : Byte) : State := (base.setReg 0x0#4 a).setReg 0x1#4 b

/-- The outcome's next state, if it has one. -/
def nextOf (o : Host.Outcome State Fault Refusal) : Option State :=
  match o with
  | .next t => some t
  | .fault _ => none
  | .refused _ => none

/-- The step that fetches `w` in `s` has a next state with the property `p`. -/
def after (s : State) (w : Nat) (p : State → Bool) : Bool := (nextOf (step (s.withFetchWord 16 w))).any p

/-- The step that fetches `w` in `s` enters the fault `k`. -/
def faults (s : State) (w : Nat) (k : Fault) : Bool := after s w (fun t => t.fault == some k)

/-- Framebuffer cell `FB[64·r + c]`. -/
def cell (t : State) (r : Fin 32) (c : Fin 64) : Byte := Framebuffer.get t.fb r c

/-- A framebuffer that is 0 but for one cell. -/
def onePixel (r : Fin 32) (c : Fin 64) : Framebuffer := Framebuffer.set Framebuffer.blank r c 1#8

/-! The cycle. -/

/-- S2, S3: no fetch above 0xFFE. -/
theorem test_fetch_range : faults (base.setPc 0xFFF#16) 0x6000 .fetchOutOfRange = true ∧
    faults (base.setPc 0x1000#16) 0x6000 .fetchOutOfRange = true := by decide
/-- S4: an odd pc is fetched. -/
theorem test_fetch_odd : after (base.setPc 0x201#16) 0x607A (fun t => t.reg 0 == 0x7A#8 && t.pc == 0x203#16) = true := by
  decide
/-- L1-12: an unknown word under Ignore. -/
theorem test_unknown_ignored : after (base.setDt 2#8) 0x0000 (fun t => t.pc == 0x202#16 && t.dt == 1#8) = true := by decide
/-- L1-12: and under Fault. -/
theorem test_unknown_faults :
    (nextOf (stepWith .fault (base.withFetchWord 16 0x0000))).any (fun t => t.fault == some .unknownOpcode) = true := by
  decide
/-- S13: a latched machine has no step. -/
theorem test_latched_stops : step { base with fault := some .stackOverflow } = .fault .stackOverflow := rfl
/-- K16, K17: the timers tick with floor zero, each on its own. -/
theorem test_tick : after (base.setDt 3#8) 0x6000 (fun t => t.dt == 2#8 && t.st == 0#8) = true := by decide

/-! Control transfer. -/

/-- C2. -/
theorem test_return : after { base with sp := 2, stack := (base.stack.set 0 0x206#16).set 1 0x3A4#16 } 0x00EE
    (fun t => t.sp == 1 && t.pc == 0x3A4#16 && t.stack[1] == 0x3A4#16) = true := by decide
/-- C1. -/
theorem test_return_underflow : faults base 0x00EE .stackUnderflow = true := by decide
/-- C4. -/
theorem test_jump : after base 0x1FFF (fun t => t.pc == 0xFFF#16) = true := by decide
/-- C6. -/
theorem test_call : after { base with sp := 15 } 0x2ABC
    (fun t => t.stack[15] == 0x202#16 && t.sp == 16 && t.pc == 0xABC#16) = true := by decide
/-- C7. -/
theorem test_call_overflow : faults { base with sp := 16 } 0x2ABC .stackOverflow = true := by decide
/-- C8, C9. -/
theorem test_skip_eq_imm : after (base.setReg 3 0x12#8) 0x3312 (fun t => t.pc == 0x204#16) = true ∧
    after (base.setReg 3 0x13#8) 0x3312 (fun t => t.pc == 0x202#16) = true := by decide
/-- C11, C12. -/
theorem test_skip_neq_imm : after (base.setReg 3 0x13#8) 0x4312 (fun t => t.pc == 0x204#16) = true ∧
    after (base.setReg 3 0x12#8) 0x4312 (fun t => t.pc == 0x202#16) = true := by decide
/-- C13, C14. -/
theorem test_skip_eq_reg :
    after ((base.setReg 1 7#8).setReg 2 7#8) 0x5120 (fun t => t.pc == 0x204#16) = true ∧
    after (base.setReg 1 7#8) 0x5110 (fun t => t.pc == 0x204#16) = true := by decide
/-- C15, C16. -/
theorem test_skip_neq_reg :
    after ((base.setReg 1 7#8).setReg 2 8#8) 0x9120 (fun t => t.pc == 0x204#16) = true ∧
    after (base.setReg 1 7#8) 0x9110 (fun t => t.pc == 0x202#16) = true := by decide
/-- C18: V0 + nnn does not wrap at 4096. -/
theorem test_jump_offset_high : after (base.setReg 0 0xFF#8) 0xBFFF (fun t => t.pc == 0x10FE#16) = true := by decide
/-- C19: V0 is used, not V5. -/
theorem test_jump_offset_v0 :
    after ((base.setReg 0 1#8).setReg 5 0x99#8) 0xB500 (fun t => t.pc == 0x501#16) = true := by decide

/-! Arithmetic and logic. -/

/-- A2: VF as an ordinary destination. -/
theorem test_load_imm : after base 0x6FFF (fun t => t.reg 15 == 0xFF#8) = true := by decide
/-- A3. -/
theorem test_add_imm_wraps : after ((base.setReg 2 0xFE#8).setReg 15 0x33#8) 0x7205
    (fun t => t.reg 2 == 0x03#8 && t.reg 15 == 0x33#8) = true := by decide
/-- A5. -/
theorem test_move : after (v01 0x00#8 0x33#8) 0x8010 (fun t => t.reg 0 == 0x33#8) = true := by decide
/-- A6. -/
theorem test_or : after ((v01 0xF0#8 0x0F#8).setReg 15 0x77#8) 0x8011
    (fun t => t.reg 0 == 0xFF#8 && t.reg 15 == 0x77#8) = true := by decide
/-- A7. -/
theorem test_and : after (v01 0xF3#8 0x3F#8) 0x8012 (fun t => t.reg 0 == 0x33#8) = true := by decide
/-- A8. -/
theorem test_xor : after (v01 0xFF#8 0x0F#8) 0x8013 (fun t => t.reg 0 == 0xF0#8) = true := by decide
/-- A10, A11. -/
theorem test_add_reg : after (v01 0xC8#8 0x64#8) 0x8014 (fun t => t.reg 0 == 0x2C#8 && t.reg 15 == 1#8) = true ∧
    after (v01 0x7F#8 0x80#8) 0x8014 (fun t => t.reg 0 == 0xFF#8 && t.reg 15 == 0#8) = true := by decide
/-- A14, A15: VF as x and as y. -/
theorem test_add_reg_vf :
    after ((base.setReg 15 0xFF#8).setReg 1 1#8) 0x8F14 (fun t => t.reg 15 == 1#8) = true ∧
    after ((base.setReg 0 0x10#8).setReg 15 0xF0#8) 0x80F4 (fun t => t.reg 0 == 0x00#8 && t.reg 15 == 1#8) = true := by
  decide
/-- A16, A17: the direction of sub. -/
theorem test_sub : after (v01 0x05#8 0x07#8) 0x8015 (fun t => t.reg 0 == 0xFE#8 && t.reg 15 == 0#8) = true ∧
    after (v01 0x07#8 0x05#8) 0x8015 (fun t => t.reg 0 == 0x02#8 && t.reg 15 == 1#8) = true := by decide
/-- A19: equal operands do not borrow. -/
theorem test_sub_equal : after (v01 0x42#8 0#8) 0x8005 (fun t => t.reg 0 == 0#8 && t.reg 15 == 1#8) = true := by decide
/-- A26, A27: the direction of subn. -/
theorem test_subn : after (v01 0x05#8 0x07#8) 0x8017 (fun t => t.reg 0 == 0x02#8 && t.reg 15 == 1#8) = true ∧
    after (v01 0x01#8 0x00#8) 0x8017 (fun t => t.reg 0 == 0xFF#8 && t.reg 15 == 0#8) = true := by decide
/-- A29. -/
theorem test_subn_vf :
    after ((base.setReg 15 0x20#8).setReg 1 0x10#8) 0x8F17 (fun t => t.reg 15 == 0#8) = true := by decide
/-- A24: V2 is not read. -/
theorem test_shift_right : after ((base.setReg 1 2#8).setReg 2 0xFF#8) 0x8126
    (fun t => t.reg 1 == 1#8 && t.reg 15 == 0#8 && t.reg 2 == 0xFF#8) = true := by decide
/-- A25. -/
theorem test_shift_right_vf : after (base.setReg 15 3#8) 0x8F06 (fun t => t.reg 15 == 0#8) = true := by decide
/-- A30: the flag is 0x80. -/
theorem test_shift_left : after (base.setReg 2 0xC1#8) 0x82AE
    (fun t => t.reg 2 == 0x82#8 && t.reg 15 == 0x80#8) = true := by decide
/-- A33. -/
theorem test_shift_left_vf : after (base.setReg 15 0xFF#8) 0x8F0E (fun t => t.reg 15 == 0#8) = true := by decide
/-- A34 for every random byte: VF is not written, pc advances. -/
theorem test_random_and : after (base.setReg 15 0x77#8) 0xC30F
    (fun t => t.reg 15 == 0x77#8 && t.pc == 0x202#16 && t.draws == 1) = true := by decide

/-! Index and memory. -/

/-- M1. -/
theorem test_set_index : after base 0xA2F0 (fun t => t.index == 0x2F0#16) = true := by decide
/-- M3, M4. -/
theorem test_add_to_index :
    after ((base.setIndex 0x0FFF#16).setReg 4 1#8) 0xF41E (fun t => t.index == 0x1000#16 && t.reg 15 == 0#8) = true ∧
    after ((base.setIndex 0xFFFF#16).setReg 4 1#8) 0xF41E (fun t => t.index == 0#16) = true := by decide
/-- M6, M8: V[x] is not masked. -/
theorem test_index_to_font_glyph : after (base.setReg 0 0x0F#8) 0xF029 (fun t => t.index == 0x04B#16) = true ∧
    after (base.setReg 0 0xFF#8) 0xF029 (fun t => t.index == 0x4FB#16) = true := by decide
/-- M10. -/
theorem test_store_bcd : after ((base.setReg 0 255#8).setIndex 0x300#16) 0xF033
    (fun t => t.byte 0x300 == 2#8 && t.byte 0x301 == 5#8 && t.byte 0x302 == 5#8) = true := by decide
/-- M12, M13. -/
theorem test_store_bcd_edge :
    after ((base.setReg 0 7#8).setIndex 0xFFD#16) 0xF033 (fun t => t.byte 0xFFF == 7#8) = true ∧
    faults ((base.setReg 0 7#8).setIndex 0xFFE#16) 0xF033 .memOutOfRange = true := by decide
/-- M14. -/
theorem test_store_registers : after (((v01 1#8 2#8).setReg 2 3#8).setIndex 0x300#16) 0xF255
    (fun t => t.byte 0x300 == 1#8 && t.byte 0x302 == 3#8 && t.byte 0x303 == 0#8 && t.index == 0x300#16) = true := by decide
/-- M17, M18. -/
theorem test_store_registers_edge :
    after ((base.setReg 0 0xAA#8).setIndex 0xFFF#16) 0xF055 (fun t => t.byte 0xFFF == 0xAA#8) = true ∧
    faults (base.setIndex 0xFFF#16) 0xF155 .memOutOfRange = true := by decide
/-- M20. -/
theorem test_load_registers :
    after (((base.placeBytes 0x300 [2#8, 3#8, 4#8]).setIndex 0x300#16).setReg 3 0x99#8) 0xF265
      (fun t => t.reg 0 == 2#8 && t.reg 2 == 4#8 && t.reg 3 == 0x99#8 && t.index == 0x300#16) = true := by decide
/-- M22. -/
theorem test_load_registers_edge : faults (base.setIndex 0xFFE#16) 0xF265 .memOutOfRange = true := by decide

/-! Display. -/

/-- D1. -/
theorem test_clear_screen : after ({ base with fb := onePixel 3 5 }.setReg 15 0x42#8) 0x00E0
    (fun t => cell t 3 5 == 0#8 && t.redraw && t.reg 15 == 0x42#8) = true := by decide
/-- D5: columns wrap. -/
theorem test_draw_wraps : after (((base.setByte 0x300 0xFF#8).setIndex 0x300#16).setReg 0 60#8) 0xD011
    (fun t => cell t 0 63 == 1#8 && cell t 0 3 == 1#8 && cell t 0 4 == 0#8 && t.reg 15 == 0#8) = true := by decide
/-- D8: XOR and collision. -/
theorem test_draw_collides :
    after ({ (base.setByte 0x300 0xC0#8).setIndex 0x300#16 with fb := onePixel 0 1 }) 0xD011
      (fun t => cell t 0 0 == 1#8 && cell t 0 1 == 0#8 && t.reg 15 == 1#8 && t.redraw) = true := by decide

/-! Keypad and timers. -/

/-- K1, K2. -/
theorem test_skip_if_key_down :
    after ((base.setReg 1 5#8).setKey 5 true) 0xE19E (fun t => t.pc == 0x204#16) = true ∧
    after (base.setReg 1 5#8) 0xE19E (fun t => t.pc == 0x202#16) = true := by decide
/-- K4, K6. -/
theorem test_skip_if_key_up : after (base.setReg 1 5#8) 0xE1A1 (fun t => t.pc == 0x204#16) = true ∧
    faults (base.setReg 1 0xFF#8) 0xE1A1 .keyOutOfRange = true := by decide
/-- K7: dt before the tick. -/
theorem test_get_delay_timer : after (base.setDt 9#8) 0xF307 (fun t => t.reg 3 == 9#8 && t.dt == 8#8) = true := by decide
/-- K9, K10. -/
theorem test_wait_for_key : after (base.setDt 5#8) 0xF20A (fun t => t.pc == 0x200#16 && t.dt == 4#8) = true ∧
    after ((base.setKey 7 true).setKey 3 true) 0xF20A (fun t => t.reg 2 == 3#8 && t.pc == 0x202#16) = true := by decide
/-- K12: the tick of the same step. -/
theorem test_set_delay_timer : after (base.setReg 0 5#8) 0xF015 (fun t => t.dt == 4#8) = true := by decide
/-- K15. -/
theorem test_set_sound_timer : after (base.setReg 0 0xFF#8) 0xF018 (fun t => t.st == 0xFE#8) = true := by decide

/-! Host transactions. -/

/-- 93_implementation_defined.md, a step before the first reset: refuse; after it the word 0x0000 of zeroed memory runs. -/
theorem test_no_step_before_reset : step State.constructed = .refused .stepBeforeReset ∧
    (nextOf (step (hostReset State.constructed))).any (fun t => t.pc == 0x202#16) = true := ⟨rfl, by decide⟩
/-- R105, R266: Restore into a faulted machine replaces its registers and redraw, and does not clear the latch. -/
theorem test_restore_into_faulted :
    (nextOf (transact (.restore (base.setReg 3 7#8)) { base.setRedraw true with fault := some .memOutOfRange })).any
      (fun t => t.fault == some .memOutOfRange && !t.redraw && t.reg 3 == 7#8) = true := by decide

/-- H7: glyph A of the default font. -/
theorem test_font_glyph : (List.range 5).map (fun i => base.byte (0x32 + i)) = [0xF0#8, 0x90#8, 0xF0#8, 0x90#8, 0x90#8] := by
  decide
/-- H1. -/
theorem test_reset_keeps_keys :
    (hostReset { (base.setKey 4 true).setReg 0 9#8 with fault := some .memOutOfRange }).keyDown 4 = true ∧
    (hostReset { base.setReg 0 9#8 with fault := some .memOutOfRange }).reg 0 = 0#8 := by decide

/-! Witnesses: for each statement with hypotheses, a concrete state and operands that meet them, clause by clause, at the
ends of their ranges. -/

theorem some_next {o : Host.Outcome State Fault Refusal} (h : (nextOf o).isSome = true) : ∃ t, o = .next t := by
  cases o with
  | next t => exact ⟨t, rfl⟩
  | fault k => cases h
  | refused r => cases h

/-- The machine at pc 0xFFE, the last address a fetch is possible at, with a word there. -/
def atTop (w : Nat) : State := (base.setPc 0xFFE#16).withFetchWord 16 w

/-- The word at pc. -/
def wordAtPc (s : State) : Word := combineBytes (s.byte s.pc.toNat) (s.byte (s.pc.toNat + 1))

/-- The ends of the font area (rule R37, glyphs 0 and F) and of the zeros above it. -/
theorem witness_ResetLeavesBootState : (hostReset base).byte 0 = 0xF0#8 ∧ (hostReset base).byte 0x4F = 0x80#8 ∧
    (hostReset base).byte 0x50 = 0#8 ∧ (hostReset base).byte 0xFFF = 0#8 := by decide

theorem witness_ResetLoadsFontParameter : font.length = 80 ∧ (List.replicate 80 0x11#8 : List Byte).length = 80 ∧
    (hostReset base).byte 0 = 0xF0#8 ∧ (hostReset base).byte 79 = 0x80#8 ∧ (hostReset base).byte 80 = 0#8 := by decide

theorem witness_StepRunsDecodedInstruction : (atTop 0x1200).fault = none ∧ (atTop 0x1200).wasReset = true ∧
    (atTop 0x1200).pc.toNat ≤ 0xFFE ∧
    decode (wordAtPc (atTop 0x1200)) = .ok (.jump 0x200#12) ∧ (∃ t, exec (.jump 0x200#12) (atTop 0x1200).advancePc = .next t) ∧
    decode (wordAtPc (atTop 0x00EE)) = .ok .ret ∧ exec .ret (atTop 0x00EE).advancePc = .fault .stackUnderflow :=
  ⟨rfl, rfl, by decide, by decide, ⟨_, rfl⟩, by decide, rfl⟩

theorem witness_UnknownWordOnlyAdvancesAndTicks : (atTop 0x0000).fault = none ∧ (atTop 0x0000).wasReset = true ∧
    (atTop 0x0000).pc.toNat ≤ 0xFFE ∧
    unknownWord (wordAtPc (atTop 0x0000)) = true := by decide

theorem witness_FetchIsBigEndian : (atTop 0x1200).pc.toNat ≤ 0xFFE ∧ (base.setPc 0x201#16).pc.toNat ≤ 0xFFE := by decide

theorem witness_OnlyResetLeavesAFault :
    ({ base with fault := some .keyOutOfRange } : State).fault = some .keyOutOfRange ∧
    (∃ t, transact .reset { base with fault := some .keyOutOfRange } = .next t ∧ t.fault = none) ∧
    (nextOf (transact (.restore base) { base with fault := some .keyOutOfRange })).isSome = true :=
  ⟨rfl, ⟨_, rfl, rfl⟩, by decide⟩

theorem witness_FaultEntryLatchesTheKind : (base.setPc 0xFFF#16).fault = none ∧
    (base.setPc 0xFFF#16).wasReset = true ∧ 0xFFE < (base.setPc 0xFFF#16).pc.toNat ∧
    (atTop 0x00EE).fault = none ∧ (atTop 0x00EE).wasReset = true ∧ (atTop 0x00EE).pc.toNat ≤ 0xFFE ∧ decode (wordAtPc (atTop 0x00EE)) = .ok .ret ∧
    FaultsWhere (atTop 0x00EE).advancePc .stackUnderflow .ret := ⟨rfl, rfl, by decide, rfl, rfl, by decide, by decide, rfl, rfl⟩

/-- A step that sets dt, one that sets st, and one of an unknown word. -/
theorem witness_TimersTickOnEveryStep :
    (∃ t, step (atTop 0xF015) = .next t ∧ t.fault = none) ∧ fetch (atTop 0xF015) = .ok 0xF015#16 ∧
    decode 0xF015#16 = .ok (.setDelayTimer 0x0#4) ∧
    (∃ t, step (atTop 0xF018) = .next t ∧ t.fault = none) ∧ fetch (atTop 0xF018) = .ok 0xF018#16 ∧
    decode 0xF018#16 = .ok (.setSoundTimer 0x0#4) ∧
    (∃ t, step (atTop 0x0000) = .next t ∧ t.fault = none) ∧ fetch (atTop 0x0000) = .ok 0x0000#16 ∧
    (∀ x, decode 0x0000#16 ≠ .ok (.setDelayTimer x)) ∧ (∀ x, decode 0x0000#16 ≠ .ok (.setSoundTimer x)) :=
  ⟨⟨_, rfl, rfl⟩, rfl, by decide, ⟨_, rfl, rfl⟩, rfl, by decide, ⟨_, rfl, rfl⟩, rfl, by decide, by decide⟩

theorem witness_EncodeOfDecode : decode 0xD125#16 = .ok (.drawSprite 0x1#4 0x2#4 0x5#4) := by decide

/-- A word of each clause. -/
theorem witness_DecodeReadsTheFields :
    ((List.range 16).all fun op => (BitVec.ofNat 16 (op * 0x1000)).extractLsb' 12 4 == BitVec.ofNat 4 op) = true ∧
    ([0, 1, 2, 3, 4, 5, 6, 7, 14].all fun n => (BitVec.ofNat 16 (0x8120 + n)).extractLsb' 0 4 == BitVec.ofNat 4 n) = true ∧
    ([0x9E, 0xA1].all fun k => (BitVec.ofNat 16 (0xE100 + k)).extractLsb' 0 8 == BitVec.ofNat 8 k) = true ∧
    ([0x07, 0x0A, 0x15, 0x18, 0x1E, 0x29, 0x33, 0x55, 0x65].all fun k =>
      (BitVec.ofNat 16 (0xF100 + k)).extractLsb' 0 8 == BitVec.ofNat 8 k) = true := by decide

/-- The hypotheses x ≠ 0xF and x = 0xF of the flag statements. -/
theorem witness_flag_register : (0x0#4 : Reg) ≠ regF ∧ (0xE#4 : Reg) ≠ regF ∧ (0xF#4 : Reg) = regF := by decide

theorem witness_RandomAndMasksAFreeByte : (0#8 : Byte) = 0#8 ∧ (0xFF#8 : Byte) = 0xFF#8 ∧ 7 < 8 := by decide

theorem witness_CallPushesTheReturnAddress : base.sp.val < 16 ∧ ({ base with sp := 15 } : State).sp.val < 16 ∧
    ({ base with sp := 16 } : State).sp.val = 16 := by decide

theorem witness_ReturnPopsTheReturnAddress : 0 < ({ base with sp := 1 } : State).sp.val ∧
    0 < ({ base with sp := 16 } : State).sp.val ∧ base.sp.val = 0 := by decide

theorem witness_ReturnUndoesCall : ∃ t u : State, exec (.call 0x300#12) { base with sp := 15 } = .next t ∧
    u.stack = t.stack ∧ u.sp = t.sp := ⟨_, _, rfl, rfl, rfl⟩

theorem witness_MemoryPrimitives : 0xFFF < 0x1000 ∧ 0xFFF ≤ 0xFFF ∧ base.wf = true := by decide

theorem witness_StoreBcdWritesThreeDigits : (base.setIndex 0xFFD#16).index.toNat ≤ 0xFFD ∧
    0xFFD < (base.setIndex 0xFFE#16).index.toNat := by decide

/-- For store-registers and load-registers alike. -/
theorem witness_register_transfers : (base.setIndex 0xFF0#16).index.toNat + (0xF#4).toNat ≤ 0xFFF ∧
    (base.setIndex 0xFFF#16).index.toNat + (0x0#4).toNat ≤ 0xFFF ∧
    0xFFF < (base.setIndex 0xFF1#16).index.toNat + (0xF#4).toNat ∧
    0xFFF < (base.setIndex 0xFFFF#16).index.toNat + (0x0#4).toNat := by decide

theorem witness_StoredBytesAreFetched : 1 ≤ (0x1#4).toNat ∧
    ∃ t, exec (.storeRegisters 0x1#4) (base.setIndex 0xFFE#16) = .next t := ⟨by decide, some_next (by decide)⟩

theorem witness_DrawSpriteXorsAndCollides : (0x0#4 : Nibble).toNat = 0 ∧
    (base.setIndex 0xFFE#16).index.toNat + (0x2#4 : Nibble).toNat ≤ 0x1000 ∧ 1 ≤ (0x2#4 : Nibble).toNat ∧
    0xFFF < (base.setIndex 0xFFF#16).index.toNat + (0x2#4 : Nibble).toNat - 1 := by decide

/-- Glyph 0 at the origin hits cell (0, 0), which is 0, and misses cell (0, 4). -/
theorem witness_sprite_hits :
    SpriteHits (fun i => base.byte (base.index.toNat + i)) 5 (base.reg 0).toNat (base.reg 1).toNat 0 0 ∧
    cell base 0 0 = 0#8 ∧ ¬SpriteHits (fun i => base.byte (base.index.toNat + i)) 5 (base.reg 0).toNat (base.reg 1).toNat 0 4 :=
  ⟨⟨0, by decide, 0, by decide, by decide, by decide, by decide⟩, by decide,
    fun ⟨i, hi, l, hl, hb, hr, hc⟩ => by
      have h4 : l = 4 := by have e : base.reg 0 = 0#8 := rfl; rw [e] at hc; simp at hc; omega
      have h0 : i = 0 := by have e : base.reg 1 = 0#8 := rfl; rw [e] at hr; simp at hr; omega
      subst h4; subst h0; exact absurd hb (by decide)⟩

theorem witness_DrawingTwiceRestoresTheDisplay : (0x0#4 : Reg) ≠ regF ∧ (0x1#4 : Reg) ≠ regF ∧
    ∃ t, exec (.drawSprite 0x0#4 0x1#4 0x5#4) base = .next t := ⟨by decide, by decide, some_next (by decide)⟩

theorem witness_KeySkipsSampleTheKey : ((base.setReg 1 0x0F#8).reg 1).toNat < 16 ∧
    0xF < ((base.setReg 1 0x10#8).reg 1).toNat := by decide

theorem witness_WaitForKeyTakesTheLowestKey : (∀ k, base.keyDown k = false) ∧
    (base.setKey 0 true).keyDown 0 = true ∧ (∀ j : Fin 16, j < 0 → (base.setKey 0 true).keyDown j = false) ∧
    (base.setKey 15 true).keyDown 15 = true ∧ (∀ j : Fin 16, j < 15 → (base.setKey 15 true).keyDown j = false) := by decide

theorem witness_WaitForKeyStepPolls : (atTop 0xFF0A).fault = none ∧ (atTop 0xFF0A).wasReset = true ∧
    (atTop 0xFF0A).pc.toNat ≤ 0xFFE ∧
    decode (wordAtPc (atTop 0xFF0A)) = .ok (.waitForKey 0xF#4) ∧ (∀ k, (atTop 0xFF0A).keyDown k = false) := by decide

theorem witness_RegisterInstructionsFrame :
    (∃ t, exec (.loadImm 0xF#4 1#8) base = .next t) ∧ (∃ t, exec (.addImm 0xF#4 1#8) base = .next t) ∧
    (∃ t, exec (.move 0xF#4 0#4) base = .next t) ∧ (∃ t, exec (.orReg 0xF#4 0#4) base = .next t) ∧
    (∃ t, exec (.andReg 0xF#4 0#4) base = .next t) ∧ (∃ t, exec (.xorReg 0xF#4 0#4) base = .next t) ∧
    (∃ t, exec (.getDelayTimer 0xF#4) base = .next t) ∧ (∃ t, exec (.randomAnd 0xF#4 1#8) base = .next t) :=
  ⟨⟨_, rfl⟩, ⟨_, rfl⟩, ⟨_, rfl⟩, ⟨_, rfl⟩, ⟨_, rfl⟩, ⟨_, rfl⟩, ⟨_, rfl⟩, ⟨_, rfl⟩⟩

theorem witness_FlagInstructionsFrame :
    (∃ t, exec (.addReg 0xF#4 0#4) base = .next t) ∧ (∃ t, exec (.sub 0#4 0xF#4) base = .next t) ∧
    (∃ t, exec (.subn 0#4 1#4) base = .next t) ∧ (∃ t, exec (.shiftRight 0xF#4 0#4) base = .next t) ∧
    (∃ t, exec (.shiftLeft 0#4 0#4) base = .next t) := ⟨⟨_, rfl⟩, ⟨_, rfl⟩, ⟨_, rfl⟩, ⟨_, rfl⟩, ⟨_, rfl⟩⟩

theorem witness_PcInstructionsFrame :
    (∃ t, exec (.jump 0xFFF#12) base = .next t) ∧ (∃ t, exec (.jumpOffset 0xFFF#12) base = .next t) ∧
    (∃ t, exec (.skipEqImm 0#4 0#8) base = .next t) ∧ (∃ t, exec (.skipNeqImm 0#4 0#8) base = .next t) ∧
    (∃ t, exec (.skipEqReg 0#4 0#4) base = .next t) ∧ (∃ t, exec (.skipNeqReg 0#4 0#4) base = .next t) ∧
    (∃ t, exec (.skipIfKeyDown 0#4) base = .next t) ∧ (∃ t, exec (.skipIfKeyUp 0#4) base = .next t) ∧
    ((∃ t, exec (.waitForKey 0#4) base = .next t) ∧ ∀ k, base.keyDown k = false) ∧
    (∃ t, exec (.waitForKey 0#4) (base.setKey 15 true) = .next t) ∧ (base.setKey 15 true).keyDown 15 = true :=
  ⟨⟨_, rfl⟩, ⟨_, rfl⟩, ⟨_, rfl⟩, ⟨_, rfl⟩, ⟨_, rfl⟩, ⟨_, rfl⟩, some_next (by decide), some_next (by decide),
    ⟨some_next (by decide), by decide⟩, some_next (by decide), by decide⟩

theorem witness_StackInstructionsFrame : (∃ t, exec (.call 0#12) { base with sp := 15 } = .next t) ∧
    (∃ t, exec .ret { base with sp := 1 } = .next t) := ⟨some_next (by decide), some_next (by decide)⟩

theorem witness_IndexAndTimerInstructionsFrame : (∃ t, exec (.setIndex 0xFFF#12) base = .next t) ∧
    (∃ t, exec (.addToIndex 0#4) base = .next t) ∧ (∃ t, exec (.indexToFontGlyph 0#4) base = .next t) ∧
    (∃ t, exec (.setDelayTimer 0#4) base = .next t) ∧ (∃ t, exec (.setSoundTimer 0#4) base = .next t) :=
  ⟨⟨_, rfl⟩, ⟨_, rfl⟩, ⟨_, rfl⟩, ⟨_, rfl⟩, ⟨_, rfl⟩⟩

theorem witness_TransferInstructionsFrame : (∃ t, exec (.storeBcd 0#4) (base.setIndex 0xFFD#16) = .next t) ∧
    (∃ t, exec (.storeRegisters 0xF#4) (base.setIndex 0xFF0#16) = .next t) ∧
    (∃ t, exec (.loadRegisters 0xF#4) (base.setIndex 0xFF0#16) = .next t) :=
  ⟨some_next (by decide), some_next (by decide), some_next (by decide)⟩

theorem witness_DisplayInstructionsFrame : (∃ t, exec .clearScreen base = .next t) ∧
    (∃ t, exec (.drawSprite 0xF#4 0xF#4 0xF#4) (base.setIndex 0xFF1#16) = .next t) ∧
    (∃ t, exec (.drawSprite 0#4 0#4 0#4) (base.setIndex 0xFFFF#16) = .next t) :=
  ⟨⟨_, rfl⟩, some_next (by decide), some_next (by decide)⟩

theorem witness_OnlyNamedRegistersChange : (∃ t, exec (.loadRegisters 0xE#4) base = .next t) ∧
    writesReg regF (.loadRegisters 0xE#4) = false ∧ writesReg regF (.loadRegisters 0xF#4) = true := by
  exact ⟨some_next (by decide), by decide, by decide⟩

/-- A next state that differs in each piece that the statement is about. -/
theorem witness_SpecialStateHasOnlyItsWriters :
    (∃ t, exec (.setIndex 1#12) base = .next t ∧ t.index ≠ base.index) ∧
    (∃ t, exec (.call 1#12) base = .next t ∧ t.sp ≠ base.sp) ∧
    (∃ t, exec (.call 1#12) (base.setPc 0x202#16) = .next t ∧ t.stack ≠ base.stack) ∧
    (∃ t, exec (.setDelayTimer 0#4) (base.setReg 0 1#8) = .next t ∧ t.dt ≠ base.dt) ∧
    (∃ t, exec (.setSoundTimer 0#4) (base.setReg 0 1#8) = .next t ∧ t.st ≠ base.st) ∧
    (∃ t, exec .clearScreen base = .next t ∧ t.redraw ≠ base.redraw) ∧
    (∃ t, exec (.storeRegisters 0#4) (base.setReg 0 1#8) = .next t ∧ t.byte 0 ≠ base.byte 0) :=
  ⟨⟨_, rfl, by decide⟩, ⟨_, rfl, by decide⟩, ⟨_, rfl, by decide⟩, ⟨_, rfl, by decide⟩, ⟨_, rfl, by decide⟩,
    ⟨_, rfl, by decide⟩, ⟨_, rfl, by decide⟩⟩

theorem witness_StepKeepsWellFormedness : base.Inv ∧ ∃ t, step base = .next t :=
  ⟨show base.wf = true by decide, ⟨_, rfl⟩⟩

/-- pc at both ends, a full stack of the highest return addresses, and a step. -/
theorem witness_StepKeepsPcBounded : base.PcBounded ∧ (∃ t, step base = .next t) ∧
    State.PcBounded { base with pc := 0x10FE#16, sp := 16, stack := Vector.replicate 16 0x1000#16 } :=
  ⟨fun _ => by decide, ⟨_, rfl⟩, fun _ => by decide⟩

theorem witness_LoadProgramPlacesTheBytes : (List.replicate 0xE00 0x12#8 : List Byte).length ≤ 0xE00 ∧
    0xE00 < (List.replicate 0xE01 0x12#8 : List Byte).length ∧ ([] : List Byte).length ≤ 0xE00 :=
  ⟨by rw [List.length_replicate], by rw [List.length_replicate]; decide, by decide⟩

theorem witness_KeyEventsSetTheLevel : 0 < 16 ∧ 15 < 16 ∧ 15 < 17 := by decide

theorem witness_ClearRedrawClearsOnlyRedraw : (base.setRedraw true).redraw = true ∧
    ∃ t, transact .clearRedraw (base.setRedraw true) = .next t ∧ t.redraw = false ∧ t.fault = none := ⟨rfl, _, rfl, rfl, rfl⟩

/-- A well-formed snapshot, a latched one too, and an ill-formed one; a machine that runs and one that is latched. -/
theorem witness_RestoreTakesOnlyWellFormedStates : base.Inv ∧ State.Inv { base with fault := some .keyOutOfRange } ∧
    ¬State.Inv { base with fb := Framebuffer.set Framebuffer.blank 0 0 2#8 } :=
  ⟨show base.wf = true by decide, show State.wf { base with fault := some .keyOutOfRange } = true by decide,
    show ¬State.wf { base with fb := Framebuffer.set Framebuffer.blank 0 0 2#8 } = true by decide⟩

theorem witness_NoStepBeforeTheFirstReset :
    State.constructed.fault = none ∧ State.constructed.wasReset = false ∧ base.wasReset = true ∧
    (∃ t, transact .reset State.constructed = .next t) ∧ (∃ t, transact (.keyDown 15) State.constructed = .next t) ∧
    (∃ t, transact .step base = .next t) := ⟨rfl, rfl, rfl, ⟨_, rfl⟩, ⟨_, rfl⟩, ⟨_, rfl⟩⟩

end Sys2Proof.Tests
end

/-! PROOFS. The frame of the execute phase over all instructions: which pieces of state each instruction may change,
said once, and what each piece's writers are. -/

namespace Sys2Proof.Machine

/-! The algebra of frames, and the frames of the updates that several pieces share. -/

/-- A piece that a framed change did not leave as it was is one that the frame names. -/
theorem ChangesOnly.of_not_same {P : Part → Prop} {s t : State} (h : ChangesOnly P s t) {p : Part}
    (hp : ¬Part.Same s t p) : P p :=
  by_contra fun hn => hp (h p hn)

/-- Two framed changes in a row change what either names. -/
theorem ChangesOnly.or {P Q : Part → Prop} {s t u : State} (h : ChangesOnly P s t) (k : ChangesOnly Q t u) :
    ChangesOnly (fun p => P p ∨ Q p) s u :=
  (h.mono fun _ => .inl).trans (k.mono fun _ => .inr)

/-- A push changes sp and the slot that sp named (rule R123). -/
theorem State.push_frame (s : State) (w : Word) (n : Fin 17) (hlt : s.sp.val < 16) :
    ChangesOnly (fun p => p = .sp ∨ ∃ j : Fin 16, j.val = s.sp.val ∧ p = .slot j) s
      { s with stack := s.stack.set s.sp.val w hlt, sp := n } := by
  intro p hp
  cases p with
  | sp => exact absurd (.inl rfl) hp
  | slot j =>
    have hne : s.sp.val ≠ j.val := fun e => hp (.inr ⟨j, e.symm, rfl⟩)
    exact Vector.getElem_set_ne hlt j.isLt hne
  | _ => rfl

/-- A pop changes sp and keeps the slots (rules R25, R121). -/
theorem State.setSp_frame (s : State) (n : Fin 17) : ChangesOnly (fun p => p = .sp) s { s with sp := n } := by
  intro p hp
  cases p with
  | sp => exact absurd rfl hp
  | _ => rfl

/-- A drawing changes of the framebuffer the cells that it XORs (rule R192). -/
theorem State.setFb_frame_of_xors {s : State} {H : Fin 32 → Fin 64 → Prop} {b : Bool} {q : Framebuffer × Bool}
    (h : Xors H (s.fb, b) q) : ChangesOnly (fun p => ∃ r c, H r c ∧ p = .pixel r c) s (s.setFb q.1) := by
  obtain ⟨-, hkept, -⟩ := h
  intro p hp
  cases p with
  | pixel r c => exact hkept r c fun hh => hp ⟨r, c, hh, rfl⟩
  | _ => rfl

/-- A new register file that agrees with the old one above `V[x]` changes V0 to Vx (rule R175). -/
theorem State.setV_frame {s : State} {v : Vector Byte 16} {x : Reg}
    (h : ∀ r : Reg, ¬r.toNat ≤ x.toNat → v[r.toNat]'r.isLt = s.reg r) :
    ChangesOnly (fun p => ∃ j : Reg, j.toNat ≤ x.toNat ∧ p = .reg j) s { s with v := v } := by
  intro p hp
  cases p with
  | reg r => exact h r fun hle => hp ⟨r, hle, rfl⟩
  | _ => rfl

/-! The frame of the execute phase (rule R97, decision D20). -/

/-- The pieces of state that the execute phase of an instruction may change, started in `s`: the frame that rule R97
gives it (decision D20). -/
def execWrites (s : State) (i : Instr) (p : Part) : Prop :=
  match i with
  | .clearScreen => p = .redraw ∨ ∃ r c, p = .pixel r c
  | .ret => p = .pc ∨ p = .sp
  | .call _ => p = .pc ∨ p = .sp ∨ ∃ j : Fin 16, j.val = s.sp.val ∧ p = .slot j
  | .jump _ | .jumpOffset _ | .skipEqImm _ _ | .skipNeqImm _ _ | .skipEqReg _ _ | .skipNeqReg _ _
  | .skipIfKeyDown _ | .skipIfKeyUp _ => p = .pc
  | .loadImm x _ | .addImm x _ | .move x _ | .orReg x _ | .andReg x _ | .xorReg x _ | .getDelayTimer x => p = .reg x
  | .addReg x _ | .sub x _ | .subn x _ | .shiftRight x _ | .shiftLeft x _ => p = .reg x ∨ p = .reg regF
  | .randomAnd x _ => p = .reg x ∨ p = .draws
  | .setIndex _ | .addToIndex _ | .indexToFontGlyph _ => p = .index
  | .setDelayTimer _ => p = .dt
  | .setSoundTimer _ => p = .st
  | .waitForKey x => (s.lowestKey = none ∧ p = .pc) ∨ (s.lowestKey ≠ none ∧ p = .reg x)
  | .drawSprite x y n => p = .redraw ∨ p = .reg regF ∨
      ∃ r c, SpriteHits (fun i => s.byte (indexAddr s + i)) n.toNat (s.reg x).toNat (s.reg y).toNat r c ∧ p = .pixel r c
  | .storeBcd _ => ∃ a, indexAddr s ≤ a ∧ a < indexAddr s + 3 ∧ p = .byte a
  | .storeRegisters x => ∃ a, indexAddr s ≤ a ∧ a < indexAddr s + (x.toNat + 1) ∧ p = .byte a
  | .loadRegisters x => ∃ j : Reg, j.toNat ≤ x.toNat ∧ p = .reg j

/-- THE FRAME RULE over all instructions: when the execute phase completes, only those pieces differ (rule R97). -/
theorem exec_frame {s t : State} {i : Instr} (h : exec i s = .next t) : ChangesOnly (execWrites s i) s t := by
  cases i with
  | clearScreen =>
    obtain rfl := Host.Outcome.next.inj h
    exact ((s.setFb_frame _).or (State.setRedraw_frame _ _)).mono fun _ => Or.symm
  | ret =>
    obtain ⟨_, _, rfl⟩ := execReturn_next h
    exact ((s.setSp_frame _).or (State.setPc_frame _ _)).mono fun _ => Or.symm
  | call nnn =>
    obtain ⟨hlt, rfl⟩ := execCall_next h
    exact ((s.push_frame _ _ hlt).or (State.setPc_frame _ _)).mono fun _ => Or.symm
  | jump | jumpOffset =>
    obtain rfl := Host.Outcome.next.inj h
    exact s.setPc_frame _
  | skipEqImm | skipNeqImm | skipEqReg | skipNeqReg =>
    obtain rfl := Host.Outcome.next.inj h
    exact s.skipIf_frame _
  | skipIfKeyDown =>
    obtain ⟨_, rfl⟩ := execSkipIfKeyDown_next h
    exact s.skipIf_frame _
  | skipIfKeyUp =>
    obtain ⟨_, rfl⟩ := execSkipIfKeyUp_next h
    exact s.skipIf_frame _
  | loadImm | addImm | move | orReg | andReg | xorReg | getDelayTimer =>
    obtain rfl := Host.Outcome.next.inj h
    exact s.setReg_frame _ _
  | addReg | sub | subn =>
    obtain rfl := Host.Outcome.next.inj h
    exact (s.setReg_frame _ _).or (State.setFlag_frame _ _)
  | shiftRight | shiftLeft =>
    obtain rfl := Host.Outcome.next.inj h
    exact ((s.setFlag_frame _).or (State.setReg_frame _ _ _)).mono fun _ => Or.symm
  | randomAnd =>
    obtain rfl := Host.Outcome.next.inj h
    exact ((drawRandom_frame s).or (State.setReg_frame _ _ _)).mono fun _ => Or.symm
  | setIndex | addToIndex | indexToFontGlyph =>
    obtain rfl := Host.Outcome.next.inj h
    exact s.setIndex_frame _
  | setDelayTimer =>
    obtain rfl := Host.Outcome.next.inj h
    exact s.setDt_frame _
  | setSoundTimer =>
    obtain rfl := Host.Outcome.next.inj h
    exact s.setSt_frame _
  | waitForKey x =>
    obtain ⟨hk, rfl⟩ | ⟨k, hk, rfl⟩ := execWaitForKey_next h
    · exact (s.setPc_frame _).mono fun _ hp => .inl ⟨hk, hp⟩
    · exact (s.setReg_frame x _).mono fun _ hp => .inr ⟨by simp [hk], hp⟩
  | drawSprite =>
    obtain ⟨_, q, rfl, hq⟩ := execDrawSprite_next h
    refine (((State.setFb_frame_of_xors hq).or (State.setFlag_frame _ _)).or (State.setRedraw_frame _ _)).mono ?_
    rintro p ((hpixel | hflag) | hredraw)
    · exact .inr (.inr hpixel)
    · exact .inr (.inl hflag)
    · exact .inl hredraw
  | storeBcd => exact writeBlock_frame (raising_eq_next h)
  | storeRegisters x =>
    have hframe := writeBlock_frame (raising_eq_next h)
    rwa [State.regsTo_length] at hframe
  | loadRegisters =>
    obtain ⟨_, v, rfl, hv⟩ := execLoadRegisters_next h
    exact State.setV_frame fun r hr => (hv r.toNat r.isLt).trans (if_neg hr)

/-! The writers of each piece, read off `execWrites`. -/

section
variable {s : State} {i : Instr}

theorem execWrites_reg {r : Reg} (h : execWrites s i (.reg r)) : writesReg r i = true := by
  cases i <;> simp_all [execWrites, writesReg]

theorem execWrites_index (h : execWrites s i .index) :
    (∃ nnn, i = .setIndex nnn) ∨ (∃ x, i = .addToIndex x) ∨ ∃ x, i = .indexToFontGlyph x := by
  cases i <;> simp_all [execWrites]

theorem execWrites_sp (h : execWrites s i .sp) : i = .ret ∨ ∃ nnn, i = .call nnn := by
  cases i <;> simp_all [execWrites]

theorem execWrites_slot {j : Fin 16} (h : execWrites s i (.slot j)) : ∃ nnn, i = .call nnn := by
  cases i <;> simp_all [execWrites]

theorem execWrites_dt (h : execWrites s i .dt) : ∃ x, i = .setDelayTimer x := by
  cases i <;> simp_all [execWrites]

theorem execWrites_st (h : execWrites s i .st) : ∃ x, i = .setSoundTimer x := by
  cases i <;> simp_all [execWrites]

theorem execWrites_redraw (h : execWrites s i .redraw) : i = .clearScreen ∨ ∃ x y n, i = .drawSprite x y n := by
  cases i <;> simp_all [execWrites]

theorem execWrites_pixel {r : Fin 32} {c : Fin 64} (h : execWrites s i (.pixel r c)) :
    i = .clearScreen ∨ ∃ x y n, i = .drawSprite x y n := by
  cases i <;> simp_all [execWrites]

theorem execWrites_byte {a : Nat} (h : execWrites s i (.byte a)) :
    (∃ x, i = .storeBcd x) ∨ ∃ x, i = .storeRegisters x := by
  cases i <;> simp_all [execWrites]

theorem not_execWrites_key (k : Fin 16) : ¬execWrites s i (.key k) := by
  cases i <;> simp [execWrites]

theorem not_execWrites_fault : ¬execWrites s i .fault := by
  cases i <;> simp [execWrites]

theorem not_execWrites_wasReset : ¬execWrites s i .wasReset := by
  cases i <;> simp [execWrites]

end

/-! From the pieces to the whole fields. -/

theorem State.stack_eq_of_slots {s t : State} (h : ∀ j, Part.Same s t (.slot j)) : t.stack = s.stack :=
  Vector.ext fun n hn => h ⟨n, hn⟩

theorem State.key_eq_of_keys {s t : State} (h : ∀ k, Part.Same s t (.key k)) : t.key = s.key :=
  Vector.ext fun n hn => h ⟨n, hn⟩

theorem State.fb_eq_of_pixels {s t : State} (h : ∀ r c, Part.Same s t (.pixel r c)) : t.fb = s.fb :=
  Framebuffer.ext_get h

end Sys2Proof.Machine

/-! PROOFS. The invariant of rule R39 through every update, every instruction and the step; memory right after Reset;
the latch through every transaction. -/

namespace Sys2Proof.Machine

/-! The invariant. -/

theorem State.inv_iff (s : State) : s.Inv ↔ s.mem.wf = true ∧ s.fb.wf = true := by
  simp [State.Inv, State.wf]

/-- The invariant reads memory and the framebuffer alone. -/
theorem State.Inv.of_eq {s t : State} (hs : s.Inv) (hm : t.mem = s.mem) (hf : t.fb = s.fb) : t.Inv := by
  rw [State.inv_iff] at hs ⊢
  rwa [hm, hf]

/-- A new memory in canonical form keeps the invariant. -/
theorem State.Inv.of_mem {s : State} {m : Memory} (hs : s.Inv) (hm : s.mem.wf = true → m.wf = true) :
    State.Inv { s with mem := m } := by
  rw [State.inv_iff] at hs ⊢
  obtain ⟨hmem, hfb⟩ := hs
  exact ⟨hm hmem, hfb⟩

/-- A new framebuffer with cells 0 or 1 keeps the invariant. -/
theorem State.Inv.of_fb {s t : State} (hs : s.Inv) (hm : t.mem = s.mem) (hf : t.fb.wf = true) : t.Inv := by
  rw [State.inv_iff] at hs ⊢
  obtain ⟨hmem, -⟩ := hs
  exact ⟨hm ▸ hmem, hf⟩

theorem State.Inv.skipIf {s : State} (hs : s.Inv) (c : Bool) : (s.skipIf c).Inv :=
  hs.of_eq (s.skipIf_mem c) (s.skipIf_fb c)

/-- Every instruction keeps the invariant: the storing instructions write inside memory, the display instructions put
0 or 1 in each cell, and every other instruction writes neither (rules R39, R53, R191, R192). -/
theorem exec_keeps_inv {s t : State} {i : Instr} (hs : s.Inv) (h : exec i s = .next t) : t.Inv := by
  cases i with
  | storeBcd | storeRegisters =>
    obtain ⟨m, rfl, hm⟩ := raising_writeBlock_next h
    exact hs.of_mem hm
  | clearScreen =>
    obtain rfl := Host.Outcome.next.inj h
    exact hs.of_fb rfl Framebuffer.wf_blank
  | drawSprite =>
    obtain ⟨_, q, rfl, hq⟩ := execDrawSprite_next h
    exact hs.of_fb rfl (hq.wf (s.inv_iff.1 hs).2)
  | ret =>
    obtain ⟨_, _, rfl⟩ := execReturn_next h
    exact hs.of_eq rfl rfl
  | call =>
    obtain ⟨_, rfl⟩ := execCall_next h
    exact hs.of_eq rfl rfl
  | loadRegisters =>
    obtain ⟨_, v, rfl, _⟩ := execLoadRegisters_next h
    exact hs.of_eq rfl rfl
  | waitForKey =>
    obtain ⟨_, rfl⟩ | ⟨k, _, rfl⟩ := execWaitForKey_next h
    · exact hs.of_eq rfl rfl
    · exact hs.of_eq rfl rfl
  | skipIfKeyDown =>
    obtain ⟨_, rfl⟩ := execSkipIfKeyDown_next h
    exact hs.skipIf _
  | skipIfKeyUp =>
    obtain ⟨_, rfl⟩ := execSkipIfKeyUp_next h
    exact hs.skipIf _
  | skipEqImm | skipNeqImm | skipEqReg | skipNeqReg =>
    obtain rfl := Host.Outcome.next.inj h
    exact hs.skipIf _
  | _ =>
    obtain rfl := Host.Outcome.next.inj h
    exact hs.of_eq rfl rfl

/-- The execute phase of every word keeps the invariant, an unknown word included (rule R95). -/
theorem executeWord_keeps_inv {s t : State} {w : Word} (hs : s.Inv)
    (h : executeWord unknownOpcodePolicy w s = .next t) : t.Inv := by
  obtain ⟨i, -, e⟩ | ⟨_, -, e⟩ := executeWord_cases w s
  · exact exec_keeps_inv hs (e.symm.trans h)
  · obtain rfl := Host.Outcome.next.inj (e.symm.trans h)
    exact hs

theorem step_keeps_inv {s t : State} (hs : s.Inv) (h : step s = .next t) : t.Inv := by
  obtain ⟨-, -, ⟨k, -, rfl⟩ | ⟨w, -, ⟨k, -, rfl⟩ | ⟨u, hu, rfl⟩⟩⟩ := step_next_cases h
  · exact enterFault_wf k s
  · exact enterFault_wf k s
  · have hadv : s.advancePc.Inv := hs.of_eq rfl rfl
    exact (executeWord_keeps_inv hadv hu).of_eq rfl rfl

/-! Memory right after Reset (rules R36, R37). -/

theorem font_length : font.length = 80 := rfl

theorem unlistedByte_above_font {a : Nat} (h : 80 ≤ a) : unlistedByte a = 0#8 :=
  List.getD_eq_default font 0#8 (font_length.symm ▸ h)

/-- The reset contents are the memory that lists nothing. -/
theorem Memory.ofFun_unlistedByte (a n : Nat) : Memory.ofFun unlistedByte a n = [] := by
  induction n generalizing a with
  | zero => rfl
  | succ n ih => rw [Memory.ofFun, if_pos rfl, ih]

theorem resetWithFont_byte (glyphs : List Byte) (s : State) {a : Nat} (ha : a ≤ 0xFFF) :
    (resetWithFont glyphs s).byte a = glyphs.getD a 0#8 :=
  Memory.get_ofFun (fun b => glyphs.getD b 0#8) a (by omega)

theorem hostReset_byte (s : State) (a : Nat) : (hostReset s).byte a = unlistedByte a := rfl

theorem hostReset_eq_resetWithFont (s : State) : hostReset s = resetWithFont font s := by
  have hmem : Memory.ofFun (fun a => font.getD a 0#8) 0 0x1000 = [] := Memory.ofFun_unlistedByte 0 0x1000
  rw [resetWithFont, hmem]
  rfl

/-! The latch (rules R31, R99, R266). -/

/-- A latched machine has no step (rule R99). -/
theorem step_of_latched {s : State} {k : Fault} (h : s.fault = some k) : step s = .fault k := by
  simp [step, stepWith, stepBar, h]

theorem loadProgram_fault {b : List Byte} {s t : State} (h : loadProgram b s = .next t) : t.fault = s.fault := by
  obtain ⟨-, e⟩ | ⟨-, e⟩ := loadProgram_cases b s
  · cases e.symm.trans h
  · obtain ⟨m, hm, -⟩ := s.placeBytes_spec 0x200 b
    obtain rfl := Host.Outcome.next.inj (e.symm.trans h)
    rw [hm]

theorem keyEvent_fault {k : Nat} {down : Bool} {s t : State} (h : keyEvent k down s = .next t) :
    t.fault = s.fault := by
  obtain ⟨-, e⟩ | ⟨_, e⟩ := keyEvent_cases k down s
  · cases e.symm.trans h
  · obtain rfl := Host.Outcome.next.inj (e.symm.trans h)
    rfl

theorem restore_fault {u s t : State} (h : restore u s = .next t) : t.fault = restoredLatch u.fault s.fault := by
  obtain ⟨-, e⟩ | ⟨-, e⟩ := restore_cases u s
  · cases e.symm.trans h
  · obtain rfl := Host.Outcome.next.inj (e.symm.trans h)
    rfl

/-- No transaction but Reset clears the latch (rules R31, R235, R266, decision D11). -/
theorem transact_keeps_latch {s t : State} {k : Fault} {x : Transaction} (hk : s.fault = some k)
    (hx : x ≠ .reset) (h : transact x s = .next t) : t.fault ≠ none := by
  have hs : s.fault ≠ none := by simp [hk]
  cases x with
  | reset => exact absurd rfl hx
  | loadProgram b => rwa [loadProgram_fault h]
  | step => cases (step_of_latched hk).symm.trans h
  | clearRedraw =>
    obtain rfl := Host.Outcome.next.inj h
    exact hs
  | keyDown | keyUp => rwa [keyEvent_fault h]
  | restore u =>
    rw [restore_fault h, ne_eq, restoredLatch_eq_none]
    exact fun hnone => hs hnone.2

end Sys2Proof.Machine

/-! PROOFS. The statements about the state (10_state.md), settled. -/

namespace Sys2Proof.Proofs

open Sys2Proof.Machine

/-- Settles O54, from the inversion of the step and the invariant of every instruction. -/
theorem stepKeepsWellFormedness : Obligations.StepKeepsWellFormedness :=
  fun _ _ hs h => step_keeps_inv hs h

/-- Settles O3: memory built from a function reads as the function, and built from the default font it lists nothing. -/
theorem resetLoadsFontParameter : Obligations.ResetLoadsFontParameter := by
  refine ⟨fun glyphs s hlen => ⟨fun a ha => ?_, fun a hlo hhi => ?_⟩, font_length, hostReset_eq_resetWithFont⟩
  · rw [resetWithFont_byte glyphs s (by omega), List.getD_eq_getElem _ _ ha]
  · rw [resetWithFont_byte glyphs s hhi, List.getD_eq_default _ _ (by omega)]

/-- Settles O9, from what each transaction does to the latch. -/
theorem onlyResetLeavesAFault : Obligations.OnlyResetLeavesAFault := by
  intro s k hk
  refine ⟨step_of_latched hk, fun x t h hnone => ?_, hostReset s, rfl, rfl⟩
  by_contra hx
  exact transact_keeps_latch hk hx h hnone

/-- Settles O52: the registers that the frame of an instruction names are those of `writesReg`. -/
theorem onlyNamedRegistersChange : Obligations.OnlyNamedRegistersChange := by
  intro s t i r h hr
  refine exec_frame h (.reg r) fun hw => ?_
  rw [execWrites_reg hw] at hr
  cases hr

/-- Settles O53: a piece that differs is one that the frame of the instruction names. -/
theorem specialStateHasOnlyItsWriters : Obligations.SpecialStateHasOnlyItsWriters := by
  intro s t i h
  have hframe := exec_frame h
  refine ⟨fun hne => execWrites_index (hframe.of_not_same hne), fun hne => execWrites_sp (hframe.of_not_same hne),
    fun hne => ?stack, fun hne => execWrites_dt (hframe.of_not_same hne),
    fun hne => execWrites_st (hframe.of_not_same hne), ?display,
    fun ⟨a, hne⟩ => execWrites_byte (hframe.of_not_same (p := .byte a) hne),
    State.key_eq_of_keys fun k => hframe _ (not_execWrites_key k), hframe .fault not_execWrites_fault,
    hframe .wasReset not_execWrites_wasReset⟩
  case stack =>
    by_contra hno
    exact hne (State.stack_eq_of_slots fun j => hframe _ fun hw => hno (execWrites_slot hw))
  case display =>
    rintro (hredraw | hfb)
    · exact execWrites_redraw (hframe.of_not_same hredraw)
    · by_contra hno
      exact hfb (State.fb_eq_of_pixels fun r c => hframe _ fun hw => hno (execWrites_pixel hw))

/-- Settles O2: every field of the reset state, the font area split from the memory above it. -/
theorem resetLeavesBootState : Obligations.ResetLeavesBootState := by
  intro s
  refine ⟨rfl, fun a _ => hostReset_byte s a, fun a hlo _ => ?above, fun x => ?reg, rfl, rfl, fun j => ?slot, rfl, rfl,
    fun r c => Framebuffer.get_blank r c, rfl, fun _ => rfl, rfl⟩
  case above => rw [hostReset_byte, unlistedByte_above_font hlo]
  case reg => exact Vector.getElem_replicate x.isLt
  case slot => exact Vector.getElem_replicate j.isLt

/-- Settles O5: empty memory is canonical, a blank display well-formed, pc 0x200 and the zero slots in their bounds. -/
theorem resetMeetsInvariants : Obligations.ResetMeetsInvariants := by
  refine ⟨(State.inv_iff _).2 ⟨rfl, Framebuffer.wf_blank⟩, fun _ => ⟨by decide, fun j => ?slot⟩, rfl⟩
  case slot =>
    have hzero : State.reset.stack[j.val] = 0#16 := Vector.getElem_replicate j.isLt
    simp [hzero]

end Sys2Proof.Proofs

/-! PROOFS. The two bytes of a combined word (rule R54), the memory primitives as operations on the state (rule R53),
and the bytes that a block write leaves behind. -/

namespace Sys2Proof

variable (hi lo : Byte)

@[simp] theorem combineBytes_hi : (combineBytes hi lo).extractLsb' 8 8 = hi := BitVec.extractLsb'_append_eq_left

@[simp] theorem combineBytes_lo : (combineBytes hi lo).extractLsb' 0 8 = lo := BitVec.extractLsb'_append_eq_right

end Sys2Proof

namespace Sys2Proof.Machine

/-- Inside memory a fetch gives the word of the bytes at pc and pc + 1 (rules R54, R92). -/
theorem fetch_of_le {s : State} (h : s.pc.toNat ≤ 0xFFE) :
    fetch s = .ok (combineBytes (s.byte s.pc.toNat) (s.byte (s.pc.toNat + 1))) := by
  obtain ⟨hout, -⟩ | ⟨-, e⟩ := fetch_cases s
  · omega
  · exact e

/-! The two sides of the bound of the memory primitives (rule R53, decision D7). -/

section
variable {a : Nat} (s : State) (w : Byte)

theorem memRead_of_le (h : a ≤ 0xFFF) : memRead s a = .ok (s.byte a) := if_neg (Nat.not_lt.2 h)

theorem memRead_of_gt (h : 0xFFF < a) : memRead s a = .error .memOutOfRange := if_pos h

theorem memWrite_of_le (h : a ≤ 0xFFF) : memWrite s a w = .ok (s.setByte a w) := if_neg (Nat.not_lt.2 h)

theorem memWrite_of_gt (h : 0xFFF < a) : memWrite s a w = .error .memOutOfRange := if_pos h

theorem State.byte_setByte_same : (s.setByte a w).byte a = w := (s.byte_setByte a a w).trans (if_pos rfl)

end

/-- A byte write inside memory keeps the invariant (rule R39). -/
theorem State.Inv.setByte {s : State} (hs : s.Inv) {a : Nat} (ha : a ≤ 0xFFF) (w : Byte) : (s.setByte a w).Inv :=
  hs.of_mem fun hm => Memory.wf_set hm (by omega)

/-- A storing instruction that completes has its whole block inside memory, and each byte of the block reads as
written (rules R52, R53). -/
theorem raising_writeBlock_bytes {s t : State} {a : Nat} {bs : List Byte}
    (h : raising (writeBlock s a bs) = .next t) :
    (bs = [] ∨ a + bs.length ≤ 0x1000) ∧ ∀ (k : Nat) (hk : k < bs.length), t.byte (a + k) = bs[k] := by
  have h := raising_eq_next h
  obtain ⟨hfit, m, hm, -, hget⟩ | ⟨-, hm⟩ := writeBlock_spec s a bs
  · obtain rfl := Except.ok.inj (hm.symm.trans h)
    refine ⟨hfit, fun k hk => (hget (a + k)).trans ?_⟩
    rw [dif_pos (by omega)]
    simp only [Nat.add_sub_cancel_left]
  · cases hm.symm.trans h

/-- Store-registers that completes fits inside memory, and I + j then reads as V[j] for every j up to x (rule R174). -/
theorem execStoreRegisters_bytes {s t : State} {x : Reg} (h : execStoreRegisters x s = .next t) :
    indexAddr s + x.toNat ≤ 0xFFF ∧ ∀ j : Reg, j.toNat ≤ x.toNat → t.byte (indexAddr s + j.toNat) = s.reg j := by
  have hlen := s.regsTo_length x
  obtain ⟨hempty | hfit, hbytes⟩ := raising_writeBlock_bytes h
  · simp [hempty] at hlen
  · refine ⟨by omega, fun j hj => ?_⟩
    rw [hbytes j.toNat (by omega), State.regsTo_getElem, BitVec.ofNat_toNat, BitVec.setWidth_eq]

end Sys2Proof.Machine

/-! PROOFS. The statements about memory (20_memory.md), settled. -/

namespace Sys2Proof.Proofs

open Sys2Proof.Machine

/-- Settles O32: each primitive on the two sides of the bound, and the byte write's read-back, frame and invariant. -/
theorem memoryPrimitives : Obligations.MemoryPrimitives := fun s _ w =>
  ⟨fun ha => ⟨memRead_of_gt s ha, memWrite_of_gt s w ha⟩,
    fun ha => ⟨memRead_of_le s ha, _, memWrite_of_le s w ha, s.byte_setByte_same w, s.setByte_frame _ w,
      fun hs => hs.setByte ha w⟩⟩

/-- Settles O8: fetch combines the two bytes, and each stands on its own half of the word, whether pc is even or odd
(decision D8). -/
theorem fetchIsBigEndian : Obligations.FetchIsBigEndian :=
  fun _ hpc => ⟨_, fetch_of_le hpc, combineBytes_hi _ _, combineBytes_lo _ _⟩

/-- Settles O36: the store fits inside memory, so the fetch at I is in range and reads the bytes stored from V0 and V1. -/
theorem storedBytesAreFetched : Obligations.StoredBytesAreFetched := by
  intro s t x hx h
  obtain ⟨hfit, hbytes⟩ := execStoreRegisters_bytes h
  have hin : (t.setPc s.index).pc.toNat ≤ 0xFFE := show indexAddr s ≤ 0xFFE by omega
  rw [fetch_of_le hin]
  congr 2
  · exact hbytes 0x0#4 (Nat.zero_le _)
  · exact hbytes 0x1#4 hx

end Sys2Proof.Proofs

/-! PROOFS. A word put together from its own fields (rule R71), the round trip from an instruction through its word, and
the outcome of the decoder, branch by branch (rules R73, R75, R79). -/

namespace Sys2Proof

/-! A word is the word built from its own fields (rule R71). -/

section
variable {w : Word} {op n : Nibble} {kk : Byte}

/-- A word whose op nibble is `op` is built from it and from nnn. -/
theorem wordNnn_eq (hop : w.extractLsb' 12 4 = op) : wordNnn op (w.extractLsb' 0 12) = w := by
  rw [← hop, wordNnn, BitVec.extractLsb'_append_extractLsb'_eq_extractLsb' (by rfl), BitVec.extractLsb'_eq_self]

/-- A word with op nibble `op` and low byte `kk` is built from them and from x. -/
theorem wordXkk_eq (hop : w.extractLsb' 12 4 = op) (hkk : w.extractLsb' 0 8 = kk) :
    wordXkk op (w.extractLsb' 8 4) kk = w := by
  rw [← hkk, wordXkk, BitVec.extractLsb'_append_extractLsb'_eq_extractLsb' (by rfl)]
  exact wordNnn_eq hop

/-- A word with op nibble `op` and last nibble `n` is built from them and from x and y. -/
theorem wordXyn_eq (hop : w.extractLsb' 12 4 = op) (hn : w.extractLsb' 0 4 = n) :
    wordXyn op (w.extractLsb' 8 4) (w.extractLsb' 4 4) n = w := by
  rw [← hn, wordXyn, BitVec.extractLsb'_append_extractLsb'_eq_extractLsb' (by rfl)]
  exact wordXkk_eq hop rfl

end

/-! From an instruction to its word and back. -/

/-- Decoding a built word reads its operands back and takes the branch of its fixed digits, for each of the forms of
word of rule R71. -/
theorem decode_encode (i : Instr) : decode (encode i) = .ok i := by
  cases i with
  | clearScreen | ret => rfl
  | jump | call | setIndex | jumpOffset => exact (decode_wordNnn _ _).trans rfl
  | skipEqReg | move | orReg | andReg | xorReg | addReg | sub | shiftRight | subn | shiftLeft | skipNeqReg
  | drawSprite => exact (decode_wordXyn _ _ _ _).trans rfl
  | _ => exact (decode_wordXkk _ _ _).trans rfl

/-- A word that encodes an instruction decodes to it. -/
theorem decode_of_encode_eq {w : Word} {i : Instr} (h : encode i = w) : decode w = .ok i := h ▸ decode_encode i

/-- No encoding is in the table of unknown words (rule R75). -/
theorem unknownWord_encode (i : Instr) : unknownWord (encode i) = false := by
  cases i with
  | clearScreen | ret => rfl
  | _ => simp [encode, unknownWord]

/-! The decoder on a word with the fixed digits of a row, for each of the three forms of word: the row's instruction,
with the word's own fields as operands. -/

section
variable {w : Word} {op n : Nibble} {kk : Byte} {i : Instr}

theorem decode_of_op (hi : encode i = wordNnn op (w.extractLsb' 0 12)) (hop : w.extractLsb' 12 4 = op) :
    decode w = .ok i :=
  decode_of_encode_eq (hi.trans (wordNnn_eq hop))

theorem decode_of_op_kk (hi : encode i = wordXkk op (w.extractLsb' 8 4) kk) (hop : w.extractLsb' 12 4 = op)
    (hkk : w.extractLsb' 0 8 = kk) : decode w = .ok i :=
  decode_of_encode_eq (hi.trans (wordXkk_eq hop hkk))

theorem decode_of_op_n (hi : encode i = wordXyn op (w.extractLsb' 8 4) (w.extractLsb' 4 4) n)
    (hop : w.extractLsb' 12 4 = op) (hn : w.extractLsb' 0 4 = n) : decode w = .ok i :=
  decode_of_encode_eq (hi.trans (wordXyn_eq hop hn))

end

/-! The outcome of the decoder. -/

/-- The two outcomes that rules R73 and R75 allow for a word: the instruction that it encodes, or the rejection of a
word of the table of unknown words. -/
inductive Decodes (w : Word) : Except DecodeReject Instr → Prop where
  | row {i : Instr} (h : encode i = w) : Decodes w (.ok i)
  | unknown (h : unknownWord w = true) : Decodes w (.error (.unknownWord w))

section
variable {w : Word}

/-- A branch of the decoder, each side under its own condition. -/
theorem Decodes.ite {c : Prop} [Decidable c] {a b : Except DecodeReject Instr} (ha : c → Decodes w a)
    (hb : ¬c → Decodes w b) : Decodes w (if c then a else b) := by
  split
  · exact ha ‹_›
  · exact hb ‹_›

/-- The last nibbles of the 8xy_ rows, and those of their unknown words (rules R73, R75). -/
theorem aluNibble_cases : ∀ n : Nibble,
    n ∈ [0x0#4, 0x1#4, 0x2#4, 0x3#4, 0x4#4, 0x5#4, 0x6#4, 0x7#4, 0xE#4] ∨
      n ∈ [0x8#4, 0x9#4, 0xA#4, 0xB#4, 0xC#4, 0xD#4, 0xF#4] := by decide

/-- The op nibble that is left when the fifteen others are excluded. -/
theorem opNibble_cases : ∀ op : Nibble,
    op ∈ [0x0#4, 0x1#4, 0x2#4, 0x3#4, 0x4#4, 0x5#4, 0x6#4, 0x7#4, 0x8#4, 0x9#4, 0xA#4, 0xB#4, 0xC#4, 0xD#4, 0xE#4] ∨
      op = 0xF#4 := by decide

theorem decodes_alu (hop : w.extractLsb' 12 4 = 0x8#4) :
    Decodes w (decodeAlu w (w.extractLsb' 8 4) (w.extractLsb' 4 4) (w.extractLsb' 0 4)) :=
  .ite (fun hn => .row (wordXyn_eq hop hn)) fun h0 =>
  .ite (fun hn => .row (wordXyn_eq hop hn)) fun h1 =>
  .ite (fun hn => .row (wordXyn_eq hop hn)) fun h2 =>
  .ite (fun hn => .row (wordXyn_eq hop hn)) fun h3 =>
  .ite (fun hn => .row (wordXyn_eq hop hn)) fun h4 =>
  .ite (fun hn => .row (wordXyn_eq hop hn)) fun h5 =>
  .ite (fun hn => .row (wordXyn_eq hop hn)) fun h6 =>
  .ite (fun hn => .row (wordXyn_eq hop hn)) fun h7 =>
  .ite (fun hn => .row (wordXyn_eq hop hn)) fun hE =>
  .unknown (by
    have hn := (aluNibble_cases (w.extractLsb' 0 4)).resolve_left (by simp [h0, h1, h2, h3, h4, h5, h6, h7, hE])
    simpa [unknownWord, hop] using hn)

theorem decodes_key (hop : w.extractLsb' 12 4 = 0xE#4) :
    Decodes w (decodeKey w (w.extractLsb' 8 4) (w.extractLsb' 0 8)) :=
  .ite (fun hkk => .row (wordXkk_eq hop hkk)) fun h9E =>
  .ite (fun hkk => .row (wordXkk_eq hop hkk)) fun hA1 =>
  .unknown (by simp [unknownWord, hop, h9E, hA1])

theorem decodes_misc (hop : w.extractLsb' 12 4 = 0xF#4) :
    Decodes w (decodeMisc w (w.extractLsb' 8 4) (w.extractLsb' 0 8)) :=
  .ite (fun hkk => .row (wordXkk_eq hop hkk)) fun h07 =>
  .ite (fun hkk => .row (wordXkk_eq hop hkk)) fun h0A =>
  .ite (fun hkk => .row (wordXkk_eq hop hkk)) fun h15 =>
  .ite (fun hkk => .row (wordXkk_eq hop hkk)) fun h18 =>
  .ite (fun hkk => .row (wordXkk_eq hop hkk)) fun h1E =>
  .ite (fun hkk => .row (wordXkk_eq hop hkk)) fun h29 =>
  .ite (fun hkk => .row (wordXkk_eq hop hkk)) fun h33 =>
  .ite (fun hkk => .row (wordXkk_eq hop hkk)) fun h55 =>
  .ite (fun hkk => .row (wordXkk_eq hop hkk)) fun h65 =>
  .unknown (by simp [unknownWord, hop, h07, h0A, h15, h18, h1E, h29, h33, h55, h65])

/-- Every word decodes to the instruction it encodes, or is rejected and stands in the table of rule R75: one line per
op nibble, in the decoder's order. -/
theorem decodes (w : Word) : Decodes w (decode w) :=
  .ite (fun h0 =>
    .ite (fun hw => .row hw.symm) fun hE0 =>
    .ite (fun hw => .row hw.symm) fun hEE =>
    .unknown (by simp [unknownWord, h0, hE0, hEE])) fun h0 =>
  .ite (fun hop => .row (wordNnn_eq hop)) fun h1 =>
  .ite (fun hop => .row (wordNnn_eq hop)) fun h2 =>
  .ite (fun hop => .row (wordXkk_eq hop rfl)) fun h3 =>
  .ite (fun hop => .row (wordXkk_eq hop rfl)) fun h4 =>
  .ite (fun hop =>
    .ite (fun hn => .row (wordXyn_eq hop hn)) fun hn =>
    .unknown (by simp [unknownWord, hop, hn])) fun h5 =>
  .ite (fun hop => .row (wordXkk_eq hop rfl)) fun h6 =>
  .ite (fun hop => .row (wordXkk_eq hop rfl)) fun h7 =>
  .ite decodes_alu fun h8 =>
  .ite (fun hop =>
    .ite (fun hn => .row (wordXyn_eq hop hn)) fun hn =>
    .unknown (by simp [unknownWord, hop, hn])) fun h9 =>
  .ite (fun hop => .row (wordNnn_eq hop)) fun hA =>
  .ite (fun hop => .row (wordNnn_eq hop)) fun hB =>
  .ite (fun hop => .row (wordXkk_eq hop rfl)) fun hC =>
  .ite (fun hop => .row (wordXyn_eq hop rfl)) fun hD =>
  .ite decodes_key fun hE =>
  decodes_misc ((opNibble_cases (w.extractLsb' 12 4)).resolve_left
    (by simp [h0, h1, h2, h3, h4, h5, h6, h7, h8, h9, hA, hB, hC, hD, hE]))

theorem encode_of_decode_eq {i : Instr} (h : decode w = .ok i) : encode i = w := by
  have hw := decodes w
  rw [h] at hw
  cases hw with
  | row h => exact h

theorem decode_eq_unknown_iff : decode w = .error (.unknownWord w) ↔ unknownWord w = true := by
  cases hd : decode w with
  | ok i => simp [← encode_of_decode_eq hd, unknownWord_encode]
  | error e =>
    have hw := decodes w
    rw [hd] at hw
    cases hw with
    | unknown h => simp [h]

end

end Sys2Proof

/-! PROOFS. The statements about the encoding (30_encoding.md), settled. -/

namespace Sys2Proof.Proofs

/-- Settles O12, by the forms of the encoding. -/
theorem decodeOfEncode : Obligations.DecodeOfEncode := decode_encode

/-- Settles O13, from the outcome of each branch of the decoder. -/
theorem encodeOfDecode : Obligations.EncodeOfDecode := fun _ _ => encode_of_decode_eq

/-- Settles O14, from the outcome of each branch of the decoder; no encoding is an unknown word. -/
theorem decodeRejectsExactlyUnknownWords : Obligations.DecodeRejectsExactlyUnknownWords :=
  fun _ => decode_eq_unknown_iff

/-- Settles O15: a word with a row's fixed digits is the row's encoding of its own fields, so the round trip gives
them. -/
theorem decodeReadsTheFields : Obligations.DecodeReadsTheFields := by
  intro w
  refine ⟨fun hw => decode_of_encode_eq hw.symm, fun hw => decode_of_encode_eq hw.symm,
    decode_of_op rfl, decode_of_op rfl,
    fun hop => decode_of_op_kk rfl hop rfl, fun hop => decode_of_op_kk rfl hop rfl, decode_of_op_n rfl,
    fun hop => decode_of_op_kk rfl hop rfl, fun hop => decode_of_op_kk rfl hop rfl, fun hop => ?alu, decode_of_op_n rfl,
    decode_of_op rfl, decode_of_op rfl, fun hop => decode_of_op_kk rfl hop rfl, fun hop => decode_of_op_n rfl hop rfl,
    fun hop => ?key, fun hop => ?misc⟩
  case alu => refine ⟨?_, ?_, ?_, ?_, ?_, ?_, ?_, ?_, ?_⟩ <;> exact decode_of_op_n rfl hop
  case key => exact ⟨decode_of_op_kk rfl hop, decode_of_op_kk rfl hop⟩
  case misc => refine ⟨?_, ?_, ?_, ?_, ?_, ?_, ?_, ?_, ?_⟩ <;> exact decode_of_op_kk rfl hop

/-- Settles O16, by running the decoder on the words. -/
theorem exampleWordsDecode : Obligations.ExampleWordsDecode := by
  unfold Obligations.ExampleWordsDecode
  decide

end Sys2Proof.Proofs

/-! PROOFS. The step as fetch, execute and tick (rules R91 to R96): a step whose fetch is inside memory, the execute
phase of a known and of an unknown word, and the state that a step without a fault ticks. -/

namespace Sys2Proof.Machine

section
variable {s t : State} {p : Config.UnknownOpcodePolicy} {w : Word}

/-- A step that nothing bars and whose fetch is inside memory executes the word at pc on the advanced state. -/
theorem stepWith_of_le (hf : s.fault = none) (hr : s.wasReset = true) (hpc : s.pc.toNat ≤ 0xFFE) :
    stepWith p s =
      finishStep s (executeWord p (combineBytes (s.byte s.pc.toNat) (s.byte (s.pc.toNat + 1))) s.advancePc) := by
  rw [stepWith_open p hf hr, fetch_of_le hpc]

/-- A step that nothing bars and whose fetch is above 0xFFE enters FetchOutOfRange (rule R92). -/
theorem step_of_gt (hf : s.fault = none) (hr : s.wasReset = true) (hpc : 0xFFE < s.pc.toNat) :
    step s = .next (enterFault .fetchOutOfRange s) := by
  obtain ⟨-, e⟩ | ⟨hle, -⟩ := fetch_cases s
  · rw [step, stepWith_open _ hf hr, e]
    rfl
  · omega

theorem executeWord_of_decode {i : Instr} (h : decode w = .ok i) : executeWord p w s = exec i s := by
  rw [executeWord, h]

theorem executeWord_of_unknown (h : unknownWord w = true) : executeWord p w s = execUnknown p s := by
  rw [executeWord, decode_eq_unknown_iff.2 h]

/-- A step on a decoded instruction is the end of that instruction's execute phase (rules R91, R94). -/
theorem step_of_decode {i : Instr} (hf : s.fault = none) (hr : s.wasReset = true) (hpc : s.pc.toNat ≤ 0xFFE)
    (hd : decode (combineBytes (s.byte s.pc.toNat) (s.byte (s.pc.toNat + 1))) = .ok i) :
    step s = finishStep s (exec i s.advancePc) := by
  rw [step, stepWith_of_le hf hr hpc, executeWord_of_decode hd]

/-- A step that leaves no fault ticks the state that the execute phase of the fetched word answers, started on the
advanced pc (rules R91, R96). -/
theorem step_running_cases (h : step s = .next t) (ht : t.fault = none) :
    ∃ w u, fetch s = .ok w ∧ executeWord unknownOpcodePolicy w s.advancePc = .next u ∧ t = timerTick u := by
  obtain ⟨-, -, ⟨k, -, rfl⟩ | ⟨w, hw, ⟨k, -, rfl⟩ | ⟨u, hu, rfl⟩⟩⟩ := step_next_cases h
  · cases ht
  · cases ht
  · exact ⟨w, u, hw, hu, rfl⟩

theorem State.advancePc_frame (s : State) : ChangesOnly (fun p => p = .pc) s s.advancePc := s.setPc_frame _

/-- A tick decrements a timer by one, with floor zero (rule R217). -/
theorem tickByte_toNat (b : Byte) : (tickByte b).toNat = b.toNat - 1 := by
  by_cases hb : b = 0#8
  · rw [hb]
    rfl
  · have hpos : b.toNat ≠ 0 := fun h0 => hb (BitVec.eq_of_toNat_eq h0)
    have hle : 1#8 ≤ b := BitVec.le_def.2 (Nat.pos_of_ne_zero hpos)
    rw [tickByte, if_pos hb, BitVec.toNat_sub_of_le hle]
    rfl

end

/-! What the execute phase does to the timers and to redraw. -/

section
variable {s t : State} {w : Word}

/-- A piece that the decoded instruction does not write is kept by the execute phase, and an unknown word writes none
(rules R95, R97). -/
theorem executeWord_same {p : Part} (h : executeWord unknownOpcodePolicy w s = .next t)
    (hp : ∀ i, decode w = .ok i → ¬execWrites s i p) : Part.Same s t p := by
  obtain ⟨i, hd, e⟩ | ⟨_, -, e⟩ := executeWord_cases w s
  · exact exec_frame (e.symm.trans h) p (hp i hd)
  · obtain rfl := Host.Outcome.next.inj (e.symm.trans h)
    exact ChangesOnly.refl (fun _ => False) s p id

/-- Only set-delay-timer writes dt in an execute phase (rule R215). -/
theorem executeWord_dt (h : executeWord unknownOpcodePolicy w s = .next t)
    (hw : ∀ x, decode w ≠ .ok (.setDelayTimer x)) : t.dt = s.dt :=
  executeWord_same (p := .dt) h fun _ hd hdt =>
    have ⟨x, hx⟩ := execWrites_dt hdt
    hw x (hx ▸ hd)

/-- Only set-sound-timer writes st in an execute phase (rule R216). -/
theorem executeWord_st (h : executeWord unknownOpcodePolicy w s = .next t)
    (hw : ∀ x, decode w ≠ .ok (.setSoundTimer x)) : t.st = s.st :=
  executeWord_same (p := .st) h fun _ hd hst =>
    have ⟨x, hx⟩ := execWrites_st hst
    hw x (hx ▸ hd)

/-- The two instructions that write redraw set it; no other touches it (rules R28, R194, R195). -/
theorem exec_keeps_redraw {i : Instr} (hs : s.redraw = true) (h : exec i s = .next t) : t.redraw = true := by
  by_contra hne
  have hwrites := (exec_frame h).of_not_same (p := .redraw) (by rwa [Part.Same, hs])
  obtain rfl | ⟨x, y, n, rfl⟩ := execWrites_redraw hwrites
  · obtain rfl := Host.Outcome.next.inj h
    exact hne rfl
  · obtain ⟨_, q, rfl, _⟩ := execDrawSprite_next h
    exact hne rfl

theorem executeWord_keeps_redraw (hs : s.redraw = true) (h : executeWord unknownOpcodePolicy w s = .next t) :
    t.redraw = true := by
  obtain ⟨i, -, e⟩ | ⟨_, -, e⟩ := executeWord_cases w s
  · exact exec_keeps_redraw hs (e.symm.trans h)
  · obtain rfl := Host.Outcome.next.inj (e.symm.trans h)
    exact hs

/-- A step that leaves no fault does not clear redraw (rule R104). -/
theorem step_keeps_redraw (hs : s.redraw = true) (h : step s = .next t) (ht : t.fault = none) : t.redraw = true := by
  obtain ⟨w, u, -, hu, rfl⟩ := step_running_cases h ht
  exact (timerTick_redraw u).trans (executeWord_keeps_redraw (s := s.advancePc) hs hu)

end

end Sys2Proof.Machine

/-! PROOFS. The bounds of pc and of the return addresses (decision D13) through every instruction and the step. In an
execute phase pc is already advanced, so it is from 2 to 0x1000: the fetch was at 0xFFE at most. -/

namespace Sys2Proof.Machine

/-- Every return address of the stack is at most 0x1000: an advanced pc of some earlier fetch. -/
def State.SlotsBounded (s : State) : Prop := ∀ j : Fin 16, (s.stack[j.val]).toNat ≤ 0x1000

section
variable {s t : State} {i : Instr}

theorem addrOperand_toNat (nnn : Addr12) : (addrOperand nnn).toNat = nnn.toNat :=
  BitVec.toNat_setWidth_of_le (by decide)

theorem addrOperand_le (nnn : Addr12) : (addrOperand nnn).toNat ≤ 0xFFF := by
  have := nnn.isLt
  rw [addrOperand_toNat]
  omega

theorem regWord_le (s : State) (x : Reg) : (regWord s x).toNat ≤ 0xFF := by
  have hreg : (regWord s x).toNat = (s.reg x).toNat := BitVec.toNat_setWidth_of_le (by decide)
  have := (s.reg x).isLt
  omega

/-- The advance of a fetched pc does not wrap (rule R93, decision D13). -/
theorem State.advancePc_toNat (h : s.pc.toNat ≤ 0x1000) : (s.advancePc.pc).toNat = s.pc.toNat + 2 := by
  rw [State.advancePc_pc, BitVec.toNat_add, BitVec.toNat_ofNat]
  omega

/-- A skip adds at most 2 to pc (rule R120). -/
theorem State.skipIf_pc_le (c : Bool) (h : s.pc.toNat ≤ 0x1000) : ((s.skipIf c).pc).toNat ≤ 0x1002 := by
  cases c with
  | false => exact Nat.le_trans h (by omega)
  | true =>
    have : ((s.skipIf true).pc).toNat = s.pc.toNat + 2 := State.advancePc_toNat h
    omega

/-- Wait-for-key's way back does not wrap below zero (rule R214). -/
theorem State.retreatPc_toNat (h : 2 ≤ s.pc.toNat) : (s.retreatPc.pc).toNat = s.pc.toNat - 2 := by
  have hle : 2#16 ≤ s.pc := BitVec.le_def.2 h
  rw [State.retreatPc_pc, BitVec.toNat_sub_of_le hle]
  rfl

/-- Every instruction leaves pc at most at 0xFF + 0xFFF, which only jump-offset can reach (rule R128): a jump or a call
leaves nnn, a return a saved pc, a skip at most 0x1002, and every other instruction its own or the next address. -/
theorem exec_pc_le (hlo : 2 ≤ s.pc.toNat) (hhi : s.pc.toNat ≤ 0x1000) (hs : s.SlotsBounded)
    (h : exec i s = .next t) : t.pc.toNat ≤ 0x10FE := by
  cases i with
  | ret =>
    obtain ⟨hlt, _, rfl⟩ := execReturn_next h
    exact Nat.le_trans (hs ⟨_, hlt⟩) (by omega)
  | jump nnn =>
    obtain rfl := Host.Outcome.next.inj h
    exact Nat.le_trans (addrOperand_le nnn) (by omega)
  | call nnn =>
    obtain ⟨_, rfl⟩ := execCall_next h
    exact Nat.le_trans (addrOperand_le nnn) (by omega)
  | jumpOffset nnn =>
    obtain rfl := Host.Outcome.next.inj h
    have hreg := regWord_le s 0x0#4
    have haddr := addrOperand_le nnn
    calc (regWord s 0x0#4 + addrOperand nnn).toNat
        ≤ (regWord s 0x0#4).toNat + (addrOperand nnn).toNat := BitVec.toNat_add _ _ ▸ Nat.mod_le _ _
      _ ≤ 0x10FE := by omega
  | skipEqImm | skipNeqImm | skipEqReg | skipNeqReg =>
    obtain rfl := Host.Outcome.next.inj h
    exact Nat.le_trans (State.skipIf_pc_le _ hhi) (by omega)
  | skipIfKeyDown =>
    obtain ⟨_, rfl⟩ := execSkipIfKeyDown_next h
    exact Nat.le_trans (State.skipIf_pc_le _ hhi) (by omega)
  | skipIfKeyUp =>
    obtain ⟨_, rfl⟩ := execSkipIfKeyUp_next h
    exact Nat.le_trans (State.skipIf_pc_le _ hhi) (by omega)
  | waitForKey =>
    obtain ⟨_, rfl⟩ | ⟨k, _, rfl⟩ := execWaitForKey_next h
    · rw [State.retreatPc_toNat hlo]
      omega
    · exact Nat.le_trans hhi (by omega)
  | _ =>
    have hpc : t.pc = s.pc := exec_frame h .pc (by simp [execWrites])
    rw [hpc]
    omega

/-- Every instruction keeps the return addresses bounded: call pushes the advanced pc, and no other instruction writes a
slot (rules R97, R123). -/
theorem exec_keeps_slotsBounded (hhi : s.pc.toNat ≤ 0x1000) (hs : s.SlotsBounded) (h : exec i s = .next t) :
    t.SlotsBounded := by
  by_cases hcall : ∃ nnn, i = .call nnn
  · obtain ⟨nnn, rfl⟩ := hcall
    obtain ⟨hlt, rfl⟩ := execCall_next h
    intro j
    simp only [State.setPc_stack, Vector.getElem_set]
    split
    · exact hhi
    · exact hs j
  · intro j
    have hslot : t.stack[j.val] = s.stack[j.val] := exec_frame h (.slot j) fun hw => hcall (execWrites_slot hw)
    exact hslot ▸ hs j

/-- The two bounds through the execute phase of every word, an unknown word included. -/
theorem executeWord_keeps_bounds {w : Word} (hlo : 2 ≤ s.pc.toNat) (hhi : s.pc.toNat ≤ 0x1000) (hs : s.SlotsBounded)
    (h : executeWord unknownOpcodePolicy w s = .next t) : t.pc.toNat ≤ 0x10FE ∧ t.SlotsBounded := by
  obtain ⟨i, -, e⟩ | ⟨_, -, e⟩ := executeWord_cases w s
  · have h := e.symm.trans h
    exact ⟨exec_pc_le hlo hhi hs h, exec_keeps_slotsBounded hhi hs h⟩
  · obtain rfl := Host.Outcome.next.inj (e.symm.trans h)
    exact ⟨by omega, hs⟩

theorem step_keeps_pcBounded (hs : s.PcBounded) (h : step s = .next t) : t.PcBounded := by
  intro ht
  obtain ⟨hf, -⟩ := step_next_cases h
  obtain ⟨-, hslots⟩ := hs hf
  obtain ⟨w, u, hw, hu, rfl⟩ := step_running_cases h ht
  obtain ⟨-, e⟩ | ⟨hpc, -⟩ := fetch_cases s
  · cases e.symm.trans hw
  · have hadv := State.advancePc_toNat (s := s) (by omega)
    have hbounds := executeWord_keeps_bounds (s := s.advancePc) (by omega) (by omega) hslots hu
    exact hbounds

end

end Sys2Proof.Machine

/-! PROOFS. Where an instruction raises a fault (rule R231), and what a fault entry leaves (rule R232). -/

namespace Sys2Proof.Machine

section
variable {s : State} {k : Fault}

/-- A block write with a byte above 0xFFF raises MemOutOfRange (rules R52, R53). -/
theorem writeBlock_of_gt {a j : Nat} {bs : List Byte} (hj : j < bs.length) (h : 0xFFF < a + j) :
    writeBlock s a bs = .error .memOutOfRange := by
  obtain ⟨rfl | hfit, -⟩ | ⟨-, e⟩ := writeBlock_spec s a bs
  · cases hj
  · omega
  · exact e

/-- A block read with a byte above 0xFFF raises MemOutOfRange (rules R52, R53). -/
theorem readBlock_of_gt {a j n : Nat} (hj : j < n) (h : 0xFFF < a + j) : readBlock s a n = .error .memOutOfRange := by
  rw [readBlock_eq, if_neg (by omega)]

/-- A key index above 15 raises KeyOutOfRange (rules R211, R212). -/
theorem keyOperand_of_gt {x : Reg} (h : 0xF < (s.reg x).toNat) : keyOperand s x = .error .keyOutOfRange := by
  obtain ⟨-, e⟩ | ⟨hlt, -⟩ := keyOperand_cases s x
  · exact e
  · omega

/-- Where rule R231 says that an instruction raises a fault, its execute phase does, with that kind. -/
theorem exec_fault_of_faultsWhere {i : Instr} (h : FaultsWhere s k i) : exec i s = .fault k := by
  cases i with
  | ret =>
    obtain ⟨rfl, hsp⟩ := h
    obtain ⟨-, e⟩ | ⟨_, hne, -⟩ := popStack_cases s
    · simp [exec, execReturn, e, Except.map]
    · exact absurd hsp hne
  | call nnn =>
    obtain ⟨rfl, hsp⟩ := h
    obtain ⟨-, e⟩ | ⟨hlt, -⟩ := pushStack_cases s s.pc
    · simp [exec, execCall, e, Except.map]
    · omega
  | drawSprite x y n =>
    obtain ⟨rfl, hn, hout⟩ := h
    have hlast : 0xFFF < indexAddr s + (n.toNat - 1) := by rwa [← Nat.add_sub_assoc hn]
    have e : spriteOperand s n = .error .memOutOfRange := readBlock_of_gt (by omega) hlast
    simp [exec, execDrawSprite, e, Except.map]
  | storeBcd x =>
    obtain ⟨rfl, hout⟩ := h
    exact congrArg raising (writeBlock_of_gt (Nat.lt_succ_self 2) hout)
  | storeRegisters x =>
    obtain ⟨rfl, hout⟩ := h
    exact congrArg raising (writeBlock_of_gt (s.regsTo_length x ▸ Nat.lt_succ_self x.toNat) hout)
  | loadRegisters x =>
    obtain ⟨rfl, hout⟩ := h
    have e : readBlock s (indexAddr s) (x.toNat + 1) = .error .memOutOfRange :=
      readBlock_of_gt (Nat.lt_succ_self x.toNat) hout
    simp [exec, execLoadRegisters, e, Except.map]
  | skipIfKeyDown x =>
    obtain ⟨rfl, hkey⟩ := h
    simp [exec, execSkipIfKeyDown, keyOperand_of_gt hkey, Except.map]
  | skipIfKeyUp x =>
    obtain ⟨rfl, hkey⟩ := h
    simp [exec, execSkipIfKeyUp, keyOperand_of_gt hkey, Except.map]
  | _ => exact absurd h (by simp [FaultsWhere])

/-- What a fault entry leaves: the kind in the latch, a well-formed state and no further step (rules R99, R232). -/
theorem completes_enterFault (h : step s = .next (enterFault k s)) :
    Completes (step s) fun t => t.fault = some k ∧ t.Inv ∧ step t = .fault k :=
  ⟨_, h, rfl, enterFault_wf k s, step_of_latched rfl⟩

end

end Sys2Proof.Machine

/-! PROOFS. What the host's transactions change (rules R101 to R105). -/

namespace Sys2Proof.Machine

section
variable (s : State)

/-- LoadProgram of at most 3584 bytes places them from 0x200 on, inside memory: they change, nothing else does, and the
invariant is kept (rule R101). -/
theorem State.placeBytes_program {b : List Byte} (hb : b.length ≤ 0xE00) :
    (∀ (j : Nat) (h : j < b.length), (s.placeBytes 0x200 b).byte (0x200 + j) = b[j]) ∧
      ChangesOnly (fun p => ∃ a, 0x200 ≤ a ∧ a < 0x200 + b.length ∧ p = .byte a) s (s.placeBytes 0x200 b) ∧
      (s.Inv → (s.placeBytes 0x200 b).Inv) := by
  obtain ⟨m, e, hwf, hget⟩ := s.placeBytes_spec 0x200 b
  rw [e]
  refine ⟨fun j hj => ?bytes, fun p hp => ?frame, fun hs => hs.of_mem hwf⟩
  case bytes =>
    refine (hget (0x200 + j)).trans ?_
    rw [dif_pos (by omega)]
    simp only [Nat.add_sub_cancel_left]
  case frame =>
    cases p with
    | byte a => exact (hget a).trans (dif_neg fun ⟨⟨hlo, hhi⟩, _⟩ => hp ⟨a, hlo, hhi, rfl⟩)
    | _ => rfl

theorem loadProgram_of_le {b : List Byte} (h : b.length ≤ 0xE00) : loadProgram b s = .next (s.placeBytes 0x200 b) :=
  if_neg (Nat.not_lt.2 h)

theorem loadProgram_of_gt {b : List Byte} (h : 0xE00 < b.length) : loadProgram b s = .refused .programTooLong :=
  if_pos h

theorem State.keyDown_setKey_same (k : Fin 16) (b : Bool) : (s.setKey k b).keyDown k = b :=
  Vector.getElem_set_self k.isLt

theorem keyEvent_of_lt {k : Nat} (h : k < 16) (down : Bool) : keyEvent k down s = .next (s.setKey ⟨k, h⟩ down) :=
  dif_pos h

theorem keyEvent_of_ge {k : Nat} (h : 15 < k) (down : Bool) : keyEvent k down s = .refused .noSuchKey :=
  dif_neg (by omega)

/-- KeyDown and KeyUp set the level of a key below 16 and nothing else (rule R102). -/
theorem completes_keyEvent {k : Nat} (h : k < 16) (down : Bool) : Completes (keyEvent k down s) fun t =>
    t.keyDown ⟨k, h⟩ = down ∧ ChangesOnly (fun p => p = .key ⟨k, h⟩) s t :=
  ⟨_, keyEvent_of_lt s h down, s.keyDown_setKey_same _ down, s.setKey_frame _ down⟩

/-- What Restore leaves of the restored state is all but the model's own two fields, and the latch where it keeps a
latched fault (rule R105, log entry 24). -/
theorem restored_frame (u : State) :
    ChangesOnly (fun p => p = .draws ∨ p = .wasReset ∨ (p = .fault ∧ u.fault = none ∧ s.fault ≠ none)) u
      { u with fault := restoredLatch u.fault s.fault, draws := s.draws, wasReset := s.wasReset } := by
  intro p hp
  cases p with
  | draws => exact absurd (.inl rfl) hp
  | wasReset => exact absurd (.inr (.inl rfl)) hp
  | fault =>
    show restoredLatch u.fault s.fault = u.fault
    rcases hu : u.fault with _ | k
    · rw [restoredLatch_none]
      by_contra hs
      exact hp (.inr (.inr ⟨rfl, hu, hs⟩))
    · rfl
  | _ => rfl

end

section
variable {s t : State}

theorem loadProgram_redraw {b : List Byte} (h : loadProgram b s = .next t) : t.redraw = s.redraw := by
  obtain ⟨-, e⟩ | ⟨hb, e⟩ := loadProgram_cases b s
  · cases e.symm.trans h
  · obtain rfl := Host.Outcome.next.inj (e.symm.trans h)
    obtain ⟨-, hframe, -⟩ := s.placeBytes_program hb
    exact hframe .redraw (by simp)

theorem keyEvent_redraw {k : Nat} {down : Bool} (h : keyEvent k down s = .next t) : t.redraw = s.redraw := by
  obtain ⟨-, e⟩ | ⟨_, e⟩ := keyEvent_cases k down s
  · cases e.symm.trans h
  · obtain rfl := Host.Outcome.next.inj (e.symm.trans h)
    rfl

/-- The transactions that may leave redraw false where it was true, without a fault (rules R104, R105, R260). -/
theorem transact_clears_redraw {x : Transaction} (hs : s.redraw = true) (h : transact x s = .next t)
    (ht : t.redraw = false) (hf : t.fault = none) : x = .clearRedraw ∨ x = .reset ∨ ∃ u, x = .restore u := by
  cases x with
  | clearRedraw => exact .inl rfl
  | reset => exact .inr (.inl rfl)
  | restore u => exact .inr (.inr ⟨u, rfl⟩)
  | step => cases ht.symm.trans (step_keeps_redraw hs h hf)
  | loadProgram b => cases ht.symm.trans ((loadProgram_redraw h).trans hs)
  | keyDown | keyUp => cases ht.symm.trans ((keyEvent_redraw h).trans hs)

end

end Sys2Proof.Machine

/-! PROOFS. The statements about the cycle, the frames and the host's transactions (40_cycle.md), settled. -/

namespace Sys2Proof.Proofs

open Sys2Proof.Machine

/-- Settles O55: the fetch bounds the pc that an execute phase starts from, and every instruction keeps both bounds. -/
theorem stepKeepsPcBounded : Obligations.StepKeepsPcBounded :=
  fun _ _ hs h => step_keeps_pcBounded hs h

/-- Settles O6: the step on a decoded instruction, ended by the tick or by the fault entry. -/
theorem stepRunsDecodedInstruction : Obligations.StepRunsDecodedInstruction := by
  intro s i hf hr hpc hd
  have hstep := step_of_decode hf hr hpc hd
  refine ⟨rfl, s.advancePc_frame, fun t ht => ?next, fun k hk => ?fault⟩
  case next => rw [hstep, ht, finishStep]
  case fault => rw [hstep, hk, finishStep]

/-- Settles O7: under the policy Ignore the step is the advance and the tick, under Fault the fault entry. -/
theorem unknownWordOnlyAdvancesAndTicks : Obligations.UnknownWordOnlyAdvancesAndTicks := by
  intro s hf hr hpc hw
  have hstep (p) : stepWith p s = finishStep s (execUnknown p s.advancePc) := by
    rw [stepWith_of_le hf hr hpc, executeWord_of_unknown hw]
  exact ⟨⟨_, hstep .ignore, rfl, tickByte_toNat s.dt, tickByte_toNat s.st,
      s.advancePc_frame.or (timerTick_frame _)⟩, ⟨_, hstep .fault, rfl⟩⟩

/-- Settles O10: the fetch's fault and the execute phase's both end in the fault entry. -/
theorem faultEntryLatchesTheKind : Obligations.FaultEntryLatchesTheKind := by
  intro s hf hr
  refine ⟨fun hpc => completes_enterFault (step_of_gt hf hr hpc), fun i k hpc hd hk => completes_enterFault ?_⟩
  rw [step_of_decode hf hr hpc hd, exec_fault_of_faultsWhere hk, finishStep]

/-- Settles O11: the tick of what the execute phase left, the value set by a timer write and else the old one. -/
theorem timersTickOnEveryStep : Obligations.TimersTickOnEveryStep := by
  intro s t w h ht hw
  obtain ⟨w', u, hw', hu, rfl⟩ := step_running_cases h ht
  obtain rfl := Except.ok.inj (hw.symm.trans hw')
  simp only [timerTick_dt, timerTick_st, tickByte_toNat]
  refine ⟨fun x hd => ?setDt, fun hd => ?keepDt, fun x hd => ?setSt, fun hd => ?keepSt⟩
  case setDt =>
    obtain rfl := Host.Outcome.next.inj ((executeWord_of_decode hd).symm.trans hu)
    rfl
  case keepDt => rw [executeWord_dt hu hd, State.advancePc_dt]
  case setSt =>
    obtain rfl := Host.Outcome.next.inj ((executeWord_of_decode hd).symm.trans hu)
    rfl
  case keepSt => rw [executeWord_st hu hd, State.advancePc_st]

/-! The frames: each is the instruction's row of `execWrites`. -/

/-- Settles O44, by the frame rule. -/
theorem registerInstructionsFrame : Obligations.RegisterInstructionsFrame := by
  refine fun s t x y kk => ⟨?_, exec_frame⟩
  rintro (h | h | h | h | h | h | h) <;> exact exec_frame h

/-- Settles O45, by the frame rule. -/
theorem flagInstructionsFrame : Obligations.FlagInstructionsFrame := by
  rintro s t x y (h | h | h | h | h) <;> exact exec_frame h

/-- Settles O46, by the frame rule; a waiting wait-for-key and one that takes a key are the two sides of its row. -/
theorem pcInstructionsFrame : Obligations.PcInstructionsFrame := by
  refine fun s t x y kk nnn => ⟨?jumpsAndSkips, fun h hup => ?waiting, fun h ⟨k, hdown⟩ => ?taken⟩
  case jumpsAndSkips => rintro (h | h | h | h | h | h | h | h) <;> exact exec_frame h
  case waiting =>
    refine (exec_frame h).mono ?_
    rintro p (⟨-, hp⟩ | ⟨hne, -⟩)
    · exact hp
    · obtain ⟨hnone, -⟩ | ⟨k, -, hdown, -⟩ := s.lowestKey_cases
      · exact absurd hnone hne
      · simp [hup k] at hdown
  case taken =>
    refine (exec_frame h).mono ?_
    rintro p (⟨hnone, -⟩ | ⟨-, hp⟩)
    · obtain ⟨-, hup⟩ | ⟨j, hsome, -⟩ := s.lowestKey_cases
      · simp [hup k] at hdown
      · cases hnone.symm.trans hsome
    · exact hp

/-- Settles O47, by the frame rule. -/
theorem stackInstructionsFrame : Obligations.StackInstructionsFrame :=
  fun _ _ _ => ⟨exec_frame, exec_frame⟩

/-- Settles O48, by the frame rule. -/
theorem indexAndTimerInstructionsFrame : Obligations.IndexAndTimerInstructionsFrame := by
  refine fun s t x nnn => ⟨?_, exec_frame, exec_frame⟩
  rintro (h | h | h) <;> exact exec_frame h

/-- Settles O49, by the frame rule. -/
theorem transferInstructionsFrame : Obligations.TransferInstructionsFrame :=
  fun _ _ _ => ⟨exec_frame, exec_frame, exec_frame⟩

/-- Settles O50, by the frame rule. -/
theorem displayInstructionsFrame : Obligations.DisplayInstructionsFrame :=
  fun _ _ _ _ _ => ⟨exec_frame, exec_frame⟩

/-! The host's transactions. -/

/-- Settles O56: up to 3584 bytes the program fits, above that LoadProgram is refused. -/
theorem loadProgramPlacesTheBytes : Obligations.LoadProgramPlacesTheBytes :=
  fun _ s => ⟨fun hle => ⟨_, loadProgram_of_le s hle, s.placeBytes_program hle⟩, loadProgram_of_gt s⟩

/-- Settles O57, by the two sides of the bound on the key. -/
theorem keyEventsSetTheLevel : Obligations.KeyEventsSetTheLevel := fun _ s =>
  ⟨fun h => ⟨completes_keyEvent s h true, completes_keyEvent s h false⟩,
    fun h => ⟨keyEvent_of_ge s h true, keyEvent_of_ge s h false⟩⟩

/-- Settles O58: ClearRedraw's one assignment, and the transactions that can clear redraw. -/
theorem clearRedrawClearsOnlyRedraw : Obligations.ClearRedrawClearsOnlyRedraw := fun s =>
  ⟨⟨_, rfl, rfl, s.setRedraw_frame false⟩, fun hs _ _ h ht hf => transact_clears_redraw hs h ht hf⟩

/-- Settles O59: Restore on the two sides of well-formedness. -/
theorem restoreTakesOnlyWellFormedStates : Obligations.RestoreTakesOnlyWellFormedStates := by
  intro u s
  obtain ⟨hwf, e⟩ | ⟨hwf, e⟩ := restore_cases u s
  · exact ⟨fun hu => absurd hu (by simp [State.Inv, hwf]), fun _ => e⟩
  · refine ⟨fun hu => ⟨_, e, restored_frame s u, fun hnone => ?latch, rfl, hu.of_eq rfl rfl⟩,
      fun hu => absurd hwf hu⟩
    case latch => rw [hnone, restoredLatch_none]

end Sys2Proof.Proofs

/-! PROOFS. Control transfer in the execute phase (rules R120 to R128): the next state of a call and of a return whose
stack has room, the target of a jump, and what a skip leaves. -/

namespace Sys2Proof.Machine

section
variable {s t : State} (nnn : Addr12)

/-! The stack (rules R25, R121, R123). -/

/-- With a free slot a call completes (rule R123); `execCall_next` is the way back. -/
theorem exec_call_of_lt (h : s.sp.val < 16) : exec (.call nnn) s =
    .next (State.setPc { s with stack := s.stack.set s.sp.val s.pc h, sp := ⟨s.sp.val + 1, by omega⟩ }
      (addrOperand nnn)) := by
  obtain ⟨hfull, -⟩ | ⟨_, e⟩ := pushStack_cases s s.pc
  · omega
  · simp [exec, execCall, e, Except.map]

/-- With an occupied slot a return completes (rule R121); `execReturn_next` is the way back. -/
theorem exec_ret_of_pos (h : 0 < s.sp.val) : exec .ret s =
    .next (State.setPc { s with sp := ⟨s.sp.val - 1, by omega⟩ } (s.stack[s.sp.val - 1])) := by
  obtain ⟨hempty, -⟩ | ⟨_, -, e⟩ := popStack_cases s
  · omega
  · simp [exec, execReturn, e, Except.map]

/-- A return completes with sp one less and pc from the slot it uncovers, which is kept (rules R25, R121). -/
theorem completes_ret (h : 0 < s.sp.val) : Completes (exec .ret s) fun t =>
    t.sp.val = s.sp.val - 1 ∧ t.pc = s.stack[s.sp.val - 1] ∧ t.stack = s.stack :=
  ⟨_, exec_ret_of_pos h, rfl, rfl, rfl⟩

/-- A call that completes leaves the slot of the old sp holding the advanced pc, just below the new sp (rule R123). -/
theorem exec_call_stack (h : exec (.call nnn) s = .next t) :
    ∃ hlt : s.sp.val < 16, t.sp.val = s.sp.val + 1 ∧ t.stack[s.sp.val] = s.pc := by
  obtain ⟨hlt, rfl⟩ := execCall_next h
  exact ⟨hlt, rfl, Vector.getElem_set_self hlt⟩

/-! The targets of the jumps (rules R122, R128). -/

theorem regWord_toNat (s : State) (x : Reg) : (regWord s x).toNat = (s.reg x).toNat :=
  BitVec.toNat_setWidth_of_le (by decide)

/-- A register plus an address does not wrap: 0xFF + 0xFFF is below 2^16 (rule R128). -/
theorem regWord_add_addrOperand_toNat (s : State) (x : Reg) :
    (regWord s x + addrOperand nnn).toNat = (s.reg x).toNat + nnn.toNat := by
  have hreg := regWord_le s x
  have haddr := addrOperand_le nnn
  rw [BitVec.toNat_add_of_lt (by omega), regWord_toNat, addrOperand_toNat]

/-! The skips (rule R120). -/

/-- What every skip leaves, where its test decides the proposition `p`: the conditional advance of pc, and the registers
as they were (rules R97, R120). -/
theorem completes_skipIf (s : State) {c : Bool} {p : Prop} [Decidable p] (hc : c = true ↔ p) :
    Completes (.next (s.skipIf c)) fun t =>
      t.pc = (if p then s.pc + 2#16 else s.pc) ∧ ∀ r, t.reg r = s.reg r :=
  ⟨_, rfl, by simp [hc], State.reg_congr (s.skipIf_v c)⟩

end

end Sys2Proof.Machine

/-! PROOFS. The statements about control transfer (41_control_flow.md), settled. -/

namespace Sys2Proof.Proofs

open Sys2Proof.Machine

/-- Settles O26, by the two sides of the bound on sp. -/
theorem callPushesTheReturnAddress : Obligations.CallPushesTheReturnAddress := fun _ nnn =>
  ⟨fun h => ⟨_, exec_call_of_lt nnn h, Vector.getElem_set_self h, rfl, addrOperand_toNat nnn⟩,
    fun hfull => exec_fault_of_faultsWhere (i := .call nnn) ⟨rfl, hfull⟩⟩

/-- Settles O27, by whether a slot is occupied. -/
theorem returnPopsTheReturnAddress : Obligations.ReturnPopsTheReturnAddress := fun _ =>
  ⟨completes_ret, fun hempty => exec_fault_of_faultsWhere (i := .ret) ⟨rfl, hempty⟩⟩

/-- Settles O28: the slot that the return uncovers is the one that the call wrote. -/
theorem returnUndoesCall : Obligations.ReturnUndoesCall := by
  intro s t u nnn hcall hstack hsp
  obtain ⟨hlt, htsp, hslot⟩ := exec_call_stack nnn hcall
  have husp : u.sp.val = s.sp.val + 1 := hsp ▸ htsp
  obtain ⟨r, hr, hrsp, hrpc, -⟩ := completes_ret (s := u) (by omega)
  have hback : u.sp.val - 1 = s.sp.val := by omega
  refine ⟨r, hr, ?pc, Fin.ext (hrsp.trans hback)⟩
  case pc => simpa only [hback, hstack, hslot] using hrpc

/-- Settles O25: each target is a sum of zero-extended operands, and setting pc leaves the registers. -/
theorem jumpsSetThePc : Obligations.JumpsSetThePc := fun s nnn =>
  ⟨⟨_, rfl, addrOperand_toNat nnn, fun _ => rfl⟩,
    ⟨_, rfl, regWord_add_addrOperand_toNat nnn s 0x0#4, fun _ => rfl⟩⟩

/-- Settles O29: the four Boolean tests decide the four comparisons. -/
theorem skipsAddTwoOnTheirCondition : Obligations.SkipsAddTwoOnTheirCondition := fun s _ _ _ =>
  ⟨completes_skipIf s beq_iff_eq, completes_skipIf s bne_iff_ne, completes_skipIf s beq_iff_eq,
    completes_skipIf s bne_iff_ne⟩

end Sys2Proof.Proofs

/-! PROOFS. Register arithmetic and logic in the execute phase (42_alu.md): what the register writes of an instruction
leave in V[x] and VF, and the values of the flags. -/

namespace Sys2Proof.Machine

section
variable (s : State) {x : Reg} {w : Byte}

/-! The flag register beside V[x] (rules R22, R34). -/

/-- Writing a register other than VF leaves VF. -/
theorem State.regF_setReg (hx : x ≠ regF) : (s.setReg x w).reg regF = s.reg regF := by
  rw [State.reg_setReg, if_neg hx.symm]

/-- Writing the flag leaves every register other than VF. -/
theorem State.reg_setFlag_of_ne (hx : x ≠ regF) : (s.setFlag w).reg x = s.reg x := by
  rw [State.reg_setFlag, if_neg hx]

/-- What a result of value `n` and then a flag that decides `p` leave: the flag is written last, so it is what VF holds
also with x = 0xF (decision D12). -/
theorem completes_setReg_setFlag {n : Nat} {p : Prop} [Decidable p] (hw : w.toNat = n) :
    Completes (.next ((s.setReg x w).setFlag (boolBit (decide p)))) fun t =>
      (x ≠ regF → (t.reg x).toNat = n) ∧ t.reg regF = if p then 1#8 else 0#8 := by
  refine ⟨_, rfl, fun hx => ?result, ?flag⟩
  case result => rw [State.reg_setFlag_of_ne _ hx, State.reg_setReg_same, hw]
  case flag => simp only [State.reg_setFlag_same, boolBit, decide_eq_true_eq]

/-- What a flag and then the shift of the V[x] read again leave: with x = 0xF it is the flag that is shifted (rule R9,
90_conflicts.md C4). -/
theorem completes_shiftReread (x : Reg) (shift : Byte → Byte) (f : Byte) :
    Completes (.next (shiftReread x shift (s.setFlag f))) fun t =>
      (x ≠ regF → t.reg x = shift (s.reg x) ∧ t.reg regF = f) ∧ (x = regF → t.reg regF = shift f) := by
  refine ⟨_, rfl, fun hx => ⟨?result, ?flag⟩, ?shiftedFlag⟩
  case result => rw [shiftReread, State.reg_setReg_same, State.reg_setFlag_of_ne _ hx]
  case flag => rw [shiftReread, State.regF_setReg _ hx, State.reg_setFlag_same]
  case shiftedFlag =>
    rintro rfl
    rw [shiftReread, State.reg_setReg_same, State.reg_setFlag_same]

end

/-! The values (rules R148 to R151). -/

section
variable (a b : Byte)

/-- The difference modulo 256 (rules R148, R150). -/
theorem byte_sub_toNat : (a - b).toNat = (a.toNat + 256 - b.toNat) % 256 := by
  rw [BitVec.toNat_sub, ← Nat.sub_add_comm b.isLt.le, Nat.add_comm a.toNat]

theorem lowBitFlag_toNat : (lowBitFlag a).toNat = a.toNat % 2 :=
  (BitVec.toNat_and ..).trans (Nat.and_one_is_mod _)

/-- The flag of shift-left is the high bit, not normalised (rule R151). -/
theorem highBitFlag_eq : highBitFlag a = if a.toNat ≥ 128 then 0x80#8 else 0x00#8 := by
  have hmask : highBitFlag a = if a.msb then 0x80#8 else 0x00#8 := BitVec.and_twoPow a 7
  simpa only [BitVec.msb_eq_decide, decide_eq_true_eq] using hmask

/-- Shifting the low bit right leaves nothing of it (90_conflicts.md C4). -/
theorem lowBitFlag_shiftRight : lowBitFlag a >>> 1 = 0#8 :=
  (BitVec.ushiftRight_and_distrib ..).trans BitVec.and_zero

/-- Shifting the high bit left leaves nothing of it (90_conflicts.md C4). -/
theorem highBitFlag_shiftLeft : highBitFlag a <<< 1 = 0#8 :=
  (BitVec.shiftLeft_and_distrib ..).trans BitVec.and_zero

end

end Sys2Proof.Machine

/-! PROOFS. The statements about register arithmetic and logic (42_alu.md), settled. -/

namespace Sys2Proof.Proofs

open Sys2Proof.Machine

/-- Settles O19: the operations on bytes act on their bits, and one register is written. -/
theorem bitwiseOpsActBitByBit : Obligations.BitwiseOpsActBitByBit := by
  refine fun s x y =>
    ⟨⟨_, rfl, fun b _ => ?or, s.regF_setReg⟩, ⟨_, rfl, fun b _ => ?and, s.regF_setReg⟩,
      ⟨_, rfl, fun b _ => ?xor, s.regF_setReg⟩⟩
  case or => rw [State.reg_setReg_same, BitVec.getLsbD_or]
  case and => rw [State.reg_setReg_same, BitVec.getLsbD_and]
  case xor => rw [State.reg_setReg_same, BitVec.getLsbD_xor]

/-- Settles O20: a result and then a flag. -/
theorem addRegSumAndCarry : Obligations.AddRegSumAndCarry := fun s _ _ =>
  completes_setReg_setFlag s (BitVec.toNat_add ..)

/-- Settles O21: a result and then a flag, the operands of subn exchanged. -/
theorem subAndSubnDifferenceAndNoBorrow : Obligations.SubAndSubnDifferenceAndNoBorrow := fun s _ _ =>
  ⟨completes_setReg_setFlag s (byte_sub_toNat ..), completes_setReg_setFlag s (byte_sub_toNat ..)⟩

/-- Settles O22, by whether x names VF: there the low bit itself is shifted out. -/
theorem shiftRightShiftsOutTheLowBit : Obligations.ShiftRightShiftsOutTheLowBit := by
  intro s x y
  obtain ⟨t, ht, hother, hsame⟩ := completes_shiftReread s x (fun w => w >>> 1) (lowBitFlag (s.reg x))
  refine ⟨t, ht, fun hx => ?other, fun hx => (hsame hx).trans (lowBitFlag_shiftRight _)⟩
  case other =>
    obtain ⟨hresult, hflag⟩ := hother hx
    rw [hresult, hflag, BitVec.toNat_ushiftRight, Nat.shiftRight_eq_div_pow, lowBitFlag_toNat]
    exact ⟨rfl, rfl⟩

/-- Settles O23, by whether x names VF: there the high bit itself is shifted out. -/
theorem shiftLeftShiftsOutTheHighBit : Obligations.ShiftLeftShiftsOutTheHighBit := by
  intro s x y
  obtain ⟨t, ht, hother, hsame⟩ := completes_shiftReread s x (fun w => w <<< 1) (highBitFlag (s.reg x))
  refine ⟨t, ht, fun hx => ?other, fun hx => (hsame hx).trans (highBitFlag_shiftLeft _)⟩
  case other =>
    obtain ⟨hresult, hflag⟩ := hother hx
    rw [hresult, hflag, BitVec.toNat_shiftLeft, Nat.shiftLeft_eq, highBitFlag_eq]
    exact ⟨rfl, rfl⟩

/-- Settles O17: one register is written, with the operand. -/
theorem loadImmAndMoveWriteTheOperand : Obligations.LoadImmAndMoveWriteTheOperand := fun s x _ _ =>
  ⟨⟨_, rfl, s.reg_setReg_same x _, s.regF_setReg⟩, ⟨_, rfl, s.reg_setReg_same x _, s.regF_setReg⟩⟩

/-- Settles O18: one register is written, with the sum of bytes. -/
theorem addImmWrapsWithoutFlag : Obligations.AddImmWrapsWithoutFlag := by
  refine fun s x kk => ⟨_, rfl, ?sum, s.regF_setReg⟩
  case sum => rw [State.reg_setReg_same, BitVec.toNat_add]

/-- Settles O24: whatever the random byte is, V[x] is its conjunction with kk. -/
theorem randomAndMasksAFreeByte : Obligations.RandomAndMasksAFreeByte := by
  intro s x kk
  have hmasked : ((drawRandom s).2.setReg x (Config.randomByte s.draws &&& kk)).reg x =
      Config.randomByte s.draws &&& kk := State.reg_setReg_same _ x _
  refine ⟨_, rfl, fun b _ => ?bits, ?none, ?all, rfl⟩
  case bits => exact (congrArg (·.getLsbD b) hmasked).trans BitVec.getLsbD_and
  case none => rintro rfl; exact hmasked.trans BitVec.and_zero
  case all => rintro rfl; exact hmasked.trans BitVec.and_allOnes

end Sys2Proof.Proofs

/-! PROOFS. The index and the transfers to and from memory in the execute phase (rules R170 to R176): the values of I,
the decimal digits of a byte, and what a transfer inside memory leaves. -/

namespace Sys2Proof.Machine

section
variable (s : State) (x : Reg)

/-! The values of I (rules R171, R172). -/

/-- Five times a byte fits in I, so nothing wraps (rule R172). -/
theorem regWord_mul_five_toNat : (regWord s x * 5#16).toNat = (s.reg x).toNat * 5 := by
  have hreg : (regWord s x).toNat * 5 < 2 ^ 16 := by have := regWord_le s x; omega
  rw [BitVec.toNat_mul_of_lt hreg, regWord_toNat]
  rfl

/-- The sum of I and a register is taken modulo 2^16 (decision D14). -/
theorem index_add_regWord_toNat : (s.index + regWord s x).toNat = (s.index.toNat + (s.reg x).toNat) % 65536 := by
  rw [BitVec.toNat_add, regWord_toNat]

/-! The transfers (rules R173 to R175). -/

/-- A block inside memory is stored whole, and I is kept (rules R52, R53). -/
theorem completes_raising_writeBlock {a : Nat} {bs : List Byte} (hfit : a + bs.length ≤ 0x1000) :
    Completes (raising (writeBlock s a bs)) fun t =>
      (∀ (k : Nat) (hk : k < bs.length), t.byte (a + k) = bs[k]) ∧ t.index = s.index := by
  obtain ⟨-, m, hm, -⟩ | ⟨hno, -⟩ := writeBlock_spec s a bs
  · have ht : raising (writeBlock s a bs) = .next { s with mem := m } := congrArg raising hm
    obtain ⟨-, hbytes⟩ := raising_writeBlock_bytes ht
    exact ⟨_, ht, hbytes, rfl⟩
  · exact absurd (.inr hfit) hno

/-- With its block inside memory load-registers completes (rule R175); `execLoadRegisters_next` says with what. -/
theorem execLoadRegisters_of_le (h : indexAddr s + x.toNat ≤ 0xFFF) : ∃ t, execLoadRegisters x s = .next t := by
  have hread := readBlock_eq s (indexAddr s) (x.toNat + 1)
  rw [if_pos (.inr (Nat.succ_le_succ h))] at hread
  rw [execLoadRegisters, hread]
  exact ⟨_, rfl⟩

end

end Sys2Proof.Machine

/-! PROOFS. The statements about the index and memory transfers (43_index_memory.md), settled. -/

namespace Sys2Proof.Proofs

open Sys2Proof.Machine

/-- Settles O33, by the two sides of the bound: the three digits are stored as a block, and each fits in its byte. -/
theorem storeBcdWritesThreeDigits : Obligations.StoreBcdWritesThreeDigits := by
  refine fun s x => ⟨fun h => ?inside, fun hout => exec_fault_of_faultsWhere (i := .storeBcd x) ⟨rfl, by omega⟩⟩
  case inside =>
    have hfit : indexAddr s + (bcdDigits (s.reg x)).length ≤ 0x1000 := Nat.add_le_add_right h 3
    obtain ⟨t, ht, hbytes, hindex⟩ := completes_raising_writeBlock s hfit
    have hdigit (k : Nat) (hk : k < 3) : (t.byte (indexAddr s + k)).toNat = ((bcdDigits (s.reg x))[k]).toNat :=
      congrArg BitVec.toNat (hbytes k hk)
    have hreg := (s.reg x).isLt
    refine ⟨t, ht, ?hundreds, ?tens, ?units, hindex⟩
    case hundreds => exact (hdigit 0 (by decide)).trans (Nat.mod_eq_of_lt (by omega))
    case tens => exact (hdigit 1 (by decide)).trans (Nat.mod_eq_of_lt (by omega))
    case units => exact (hdigit 2 (by decide)).trans (Nat.mod_eq_of_lt (by omega))

/-- Settles O34, by the two sides of the bound: the x + 1 registers are stored as a block. -/
theorem storeRegistersCopiesToMemory : Obligations.StoreRegistersCopiesToMemory := by
  refine fun s x => ⟨fun h => ?inside, fun hout => exec_fault_of_faultsWhere (i := .storeRegisters x) ⟨rfl, hout⟩⟩
  case inside =>
    have hfit : indexAddr s + (s.regsTo x).length ≤ 0x1000 := s.regsTo_length x ▸ Nat.succ_le_succ h
    obtain ⟨t, ht, -, hindex⟩ := completes_raising_writeBlock s hfit
    obtain ⟨-, hbytes⟩ := execStoreRegisters_bytes ht
    exact ⟨t, ht, hbytes, hindex⟩

/-- Settles O35, by the two sides of the bound: only the register file changes, and in it the registers up to x. -/
theorem loadRegistersCopiesFromMemory : Obligations.LoadRegistersCopiesFromMemory := by
  refine fun s x => ⟨fun h => ?inside, fun hout => exec_fault_of_faultsWhere (i := .loadRegisters x) ⟨rfl, hout⟩⟩
  case inside =>
    obtain ⟨t, ht⟩ := execLoadRegisters_of_le s x h
    obtain ⟨-, v, rfl, hv⟩ := execLoadRegisters_next ht
    refine ⟨_, ht, fun j hj => ?loaded, fun j hj => ?kept, rfl⟩
    case loaded => exact (hv j.toNat j.isLt).trans (if_pos hj)
    case kept => exact (hv j.toNat j.isLt).trans (if_neg (Nat.not_le.2 hj))

/-- Settles O30: I takes the operand, and the register file is left as it was. -/
theorem setIndexAndFontGlyph : Obligations.SetIndexAndFontGlyph := fun s x nnn =>
  ⟨⟨_, rfl, addrOperand_toNat nnn, rfl⟩, ⟨_, rfl, regWord_mul_five_toNat s x, rfl⟩⟩

/-- Settles O31: I takes the sum of words, and the register file is left as it was. -/
theorem addToIndexWrapsAt16Bits : Obligations.AddToIndexWrapsAt16Bits := fun s x =>
  ⟨_, rfl, index_add_regWord_toNat s x, rfl⟩

end Sys2Proof.Proofs

/-! PROOFS. The display instructions in the execute phase (rules R191 to R196): the cells that a sprite hits, what a
drawing leaves in the framebuffer, VF and redraw, and what a second drawing on the same cells undoes. -/

namespace Sys2Proof.Machine

/-! Two drawings on the same cells (rules R192, R193). -/

section
variable {H : Fin 32 → Fin 64 → Prop} {f g f' : Framebuffer} {a b a' b' : Bool}

/-- A cell that is XORed twice, or not at all, is as it was. -/
theorem Xors.twice_restores (h : Xors H (f, a) (g, b)) (h' : Xors H (g, a') (f', b')) : f' = f := by
  obtain ⟨hxor, hkept, -⟩ := h
  obtain ⟨hxor', hkept', -⟩ := h'
  refine Framebuffer.ext_get fun r c => ?_
  by_cases hit : H r c
  · rw [hxor' r c hit, hxor r c hit, BitVec.xor_assoc, BitVec.xor_self, BitVec.xor_zero]
  · rw [hkept' r c hit, hkept r c hit]

/-- The second drawing finds a 1 in a hit cell that held 0, because the first put it there. -/
theorem Xors.twice_collides (h : Xors H (f, a) (g, b)) (h' : Xors H (g, a') (f', b')) {r : Fin 32} {c : Fin 64}
    (hit : H r c) (hzero : Framebuffer.get f r c = 0#8) : b' = true := by
  obtain ⟨hxor, -⟩ := h
  obtain ⟨-, -, hcollision⟩ := h'
  have hone : Framebuffer.get g r c = 1#8 := by rw [hxor r c hit, hzero, BitVec.zero_xor]
  exact hcollision.2 (.inr ⟨r, c, hit, hone⟩)

end

/-! The flag (rules R34, R193). -/

theorem boolBit_eq_one_iff {b : Bool} : boolBit b = 1#8 ↔ b = true := by
  cases b <;> decide

theorem boolBit_eq_one_or_zero (b : Bool) : boolBit b = 1#8 ∨ boolBit b = 0#8 := by
  cases b
  · exact .inr rfl
  · exact .inl rfl

/-! Draw-sprite (rule R195). -/

/-- The cells that a 1 bit of the n sprite bytes from I lands on, drawn at (V[x], V[y]) (rules R192, R195, R196). -/
def State.spriteCells (s : State) (x y : Reg) (n : Nibble) : Fin 32 → Fin 64 → Prop :=
  SpriteHits (fun i => s.byte (indexAddr s + i)) n.toNat (s.reg x).toNat (s.reg y).toNat

section
variable {s t : State} {x y : Reg} {n : Nibble}

/-- With its sprite bytes inside memory draw-sprite completes (decision D7); `exec_drawSprite_xors` says with what. -/
theorem exec_drawSprite_of_le (hfit : n.toNat = 0 ∨ indexAddr s + n.toNat ≤ 0x1000) :
    ∃ t, exec (.drawSprite x y n) s = .next t := by
  rw [exec, execDrawSprite, spriteOperand_eq, if_pos hfit]
  exact ⟨_, rfl⟩

/-- What a completed draw-sprite leaves: its sprite's cells XORed, the collision in VF, and redraw set. -/
theorem exec_drawSprite_xors (h : exec (.drawSprite x y n) s = .next t) :
    ∃ b, Xors (s.spriteCells x y n) (s.fb, false) (t.fb, b) ∧ t.reg regF = boolBit b ∧ t.redraw = true := by
  obtain ⟨-, q, rfl, hq⟩ := execDrawSprite_next h
  exact ⟨q.2, hq, State.reg_setFlag_same _ _, rfl⟩

/-- A draw-sprite that completed completes again: I and the bytes in memory are as they were. -/
theorem exec_drawSprite_again (h : exec (.drawSprite x y n) s = .next t) :
    ∃ u, exec (.drawSprite x y n) t = .next u := by
  obtain ⟨hfit, _, rfl, -⟩ := execDrawSprite_next h
  exact exec_drawSprite_of_le hfit

/-- Draw-sprite keeps the cells that its sprite hits, where neither coordinate is in VF (rule R97). -/
theorem exec_drawSprite_spriteCells (hx : x ≠ regF) (hy : y ≠ regF) (h : exec (.drawSprite x y n) s = .next t) :
    t.spriteCells x y n = s.spriteCells x y n := by
  have hindex : indexAddr t = indexAddr s := congrArg BitVec.toNat (exec_frame h .index (by simp [execWrites]))
  have hbyte (a : Nat) : t.byte a = s.byte a := exec_frame h (.byte a) (by simp [execWrites])
  have hreg (r : Reg) (hr : r ≠ regF) : t.reg r = s.reg r := exec_frame h (.reg r) (by simp [execWrites, hr])
  simp only [State.spriteCells, hindex, hbyte, hreg x hx, hreg y hy]

end

end Sys2Proof.Machine

/-! PROOFS. The statements about the display (44_display.md), settled. -/

namespace Sys2Proof.Proofs

open Sys2Proof.Machine

/-- Settles O37: the blank framebuffer replaces the old one, and the registers are left as they were. -/
theorem clearScreenClearsEveryCell : Obligations.ClearScreenClearsEveryCell :=
  fun _ => ⟨_, rfl, Framebuffer.get_blank, rfl, rfl⟩

/-- Settles O38, by the two sides of the bound on the sprite's addresses. -/
theorem drawSpriteXorsAndCollides : Obligations.DrawSpriteXorsAndCollides := by
  refine fun s x y n => ⟨fun hfit => ?inside, fun hn hout =>
    exec_fault_of_faultsWhere (i := .drawSprite x y n) ⟨rfl, hn, hout⟩⟩
  case inside =>
    obtain ⟨t, ht⟩ := exec_drawSprite_of_le (x := x) (y := y) hfit
    obtain ⟨b, ⟨hxor, hkept, hcollision⟩, hflag, hredraw⟩ := exec_drawSprite_xors ht
    rw [or_iff_right Bool.false_ne_true] at hcollision
    refine ⟨t, ht, hxor, hkept, ?bit, ?collision, hredraw⟩
    case bit => exact hflag ▸ boolBit_eq_one_or_zero b
    case collision => exact hflag ▸ boolBit_eq_one_iff.trans hcollision

/-- Settles O39: the second drawing hits the cells of the first. -/
theorem drawingTwiceRestoresTheDisplay : Obligations.DrawingTwiceRestoresTheDisplay := by
  intro s t x y n hx hy ht
  obtain ⟨u, hu⟩ := exec_drawSprite_again ht
  obtain ⟨_, hfirst, -⟩ := exec_drawSprite_xors ht
  obtain ⟨b, hsecond, hflag, -⟩ := exec_drawSprite_xors hu
  rw [exec_drawSprite_spriteCells hx hy ht] at hsecond
  refine ⟨u, hu, hfirst.twice_restores hsecond, fun ⟨_, _, hit, hzero⟩ => ?collides⟩
  case collides => rw [hflag, boolBit_eq_one_iff, hfirst.twice_collides hsecond hit hzero]

end Sys2Proof.Proofs

/-! PROOFS. The keypad in the execute phase (rules R210 to R214): what a key skip leaves, the lowest pressed key, and the
next state of wait-for-key. -/

namespace Sys2Proof.Machine

section
variable {s : State} {x : Reg}

/-! The key skips (rules R211, R212). -/

theorem keyOperand_of_lt (h : (s.reg x).toNat < 16) : keyOperand s x = .ok ⟨(s.reg x).toNat, h⟩ := dif_pos h

/-- With V[x] a key index, a skip whose test of that key decides `p` completes and adds 2 to pc exactly if `p` holds. -/
theorem completes_keySkip (test : Fin 16 → Bool) {p : Prop} [Decidable p] (h : (s.reg x).toNat < 16)
    (hp : test ⟨(s.reg x).toNat, h⟩ = true ↔ p) :
    Completes (raising ((keyOperand s x).map fun k => s.skipIf (test k))) fun t =>
      t.pc = if p then s.pc + 2#16 else s.pc := by
  rw [keyOperand_of_lt h]
  obtain ⟨t, ht, hpc, -⟩ := completes_skipIf s hp
  exact ⟨t, ht, hpc⟩

/-! The lowest pressed key (rule R214). -/

theorem State.lowestKey_eq_none (hup : ∀ k, s.keyDown k = false) : s.lowestKey = none := by
  obtain ⟨hnone, -⟩ | ⟨k, -, hdown, -⟩ := s.lowestKey_cases
  · exact hnone
  · cases hdown.symm.trans (hup k)

/-- The pressed key below which no key is pressed is the one found: neither it nor the one found is below the other. -/
theorem State.lowestKey_eq_some {k : Fin 16} (hdown : s.keyDown k = true) (hlow : ∀ j < k, s.keyDown j = false) :
    s.lowestKey = some k.val := by
  obtain ⟨-, hup⟩ | ⟨j, hj, hjdown, hjlow⟩ := s.lowestKey_cases
  · cases hdown.symm.trans (hup k)
  · obtain hlt | rfl | hlt := lt_trichotomy j k
    · cases hjdown.symm.trans (hlow j hlt)
    · exact hj
    · cases hdown.symm.trans (hjlow k hlt)

/-! Wait-for-key (rule R214); `execWaitForKey_next` is the way back. -/

theorem exec_waitForKey_of_up (hup : ∀ k, s.keyDown k = false) : exec (.waitForKey x) s = .next s.retreatPc := by
  rw [exec, execWaitForKey, State.lowestKey_eq_none hup]

theorem exec_waitForKey_of_lowest {k : Fin 16} (hdown : s.keyDown k = true) (hlow : ∀ j < k, s.keyDown j = false) :
    exec (.waitForKey x) s = .next (s.setReg x (BitVec.ofNat 8 k)) := by
  rw [exec, execWaitForKey, State.lowestKey_eq_some hdown hlow]

/-- Going back undoes the advance of the fetch, at every pc (decision D13). -/
theorem State.retreatPc_advancePc (s : State) : s.advancePc.retreatPc = s := by
  rw [State.retreatPc, State.advancePc_pc, BitVec.add_sub_cancel]
  rfl

/-- A step of a waiting wait-for-key is the timer tick alone (rules R214, R217). -/
theorem step_of_waiting (hf : s.fault = none) (hr : s.wasReset = true) (hpc : s.pc.toNat ≤ 0xFFE)
    (hd : decode (combineBytes (s.byte s.pc.toNat) (s.byte (s.pc.toNat + 1))) = .ok (.waitForKey x))
    (hup : ∀ k, s.keyDown k = false) : step s = .next (timerTick s) := by
  have hadv : ∀ k, s.advancePc.keyDown k = false := hup
  rw [step_of_decode hf hr hpc hd, exec_waitForKey_of_up hadv, State.retreatPc_advancePc, finishStep]

end

end Sys2Proof.Machine

/-! PROOFS. The statements about the keypad and the timers (45_keypad_timers.md), settled. -/

namespace Sys2Proof.Proofs

open Sys2Proof.Machine

/-- Settles O40, by the two sides of the bound on the key index; skip-if-key-up tests the negated level. -/
theorem keySkipsSampleTheKey : Obligations.KeySkipsSampleTheKey := fun s x =>
  ⟨fun h => ⟨completes_keySkip s.keyDown h Iff.rfl,
      completes_keySkip (fun k => !s.keyDown k) h (Bool.not_eq_true' _).to_iff⟩,
    fun hout => ⟨exec_fault_of_faultsWhere (i := .skipIfKeyDown x) ⟨rfl, hout⟩,
      exec_fault_of_faultsWhere (i := .skipIfKeyUp x) ⟨rfl, hout⟩⟩⟩

/-- Settles O41, by whether a key is pressed: a key index fits in a byte. -/
theorem waitForKeyTakesTheLowestKey : Obligations.WaitForKeyTakesTheLowestKey := by
  refine fun s x => ⟨fun hup => ⟨_, exec_waitForKey_of_up hup, rfl, fun _ => rfl⟩,
    fun k hdown hlow => ⟨_, exec_waitForKey_of_lowest hdown hlow, ?key, rfl⟩⟩
  case key =>
    have hk := k.isLt
    rw [State.reg_setReg_same, BitVec.toNat_ofNat, Nat.mod_eq_of_lt (by omega)]

/-- Settles O42: the whole step is the tick of the state that it started from. -/
theorem waitForKeyStepPolls : Obligations.WaitForKeyStepPolls := fun s _ hf hr hpc hd hup =>
  ⟨_, step_of_waiting hf hr hpc hd hup, tickByte_toNat s.dt, tickByte_toNat s.st, timerTick_frame s⟩

/-- Settles O43: each transfer is one write, which is read back. -/
theorem timerTransfers : Obligations.TimerTransfers := fun s x =>
  ⟨⟨_, rfl, s.reg_setReg_same x s.dt⟩, ⟨_, rfl, s.setDt_dt _⟩, ⟨_, rfl, s.setSt_st _⟩⟩

end Sys2Proof.Proofs

/-! PROOFS. The two outcomes of an execute phase: a next state, or one of the faults of rule R231. -/

namespace Sys2Proof.Machine

section
variable {s : State}

/-- With its block inside memory a storing instruction completes (decision D7). -/
theorem raising_writeBlock_of_le {a : Nat} {bs : List Byte} (hfit : a + bs.length ≤ 0x1000) :
    ∃ t, raising (writeBlock s a bs) = .next t :=
  have ⟨t, ht, _⟩ := completes_raising_writeBlock s hfit
  ⟨t, ht⟩

/-- With V[x] a key index a skip on that key completes (decision D10). -/
theorem raising_keySkip_of_lt {x : Reg} (test : Fin 16 → Bool) (h : (s.reg x).toNat < 16) :
    ∃ t, raising ((keyOperand s x).map fun k => s.skipIf (test k)) = .next t :=
  have ⟨t, ht, _⟩ := completes_keySkip test h Iff.rfl
  ⟨t, ht⟩

/-- Wait-for-key completes whether or not a key is pressed (rule R214). -/
theorem exec_waitForKey_completes (s : State) (x : Reg) : ∃ t, exec (.waitForKey x) s = .next t := by
  obtain ⟨-, hup⟩ | ⟨k, -, hdown, hlow⟩ := s.lowestKey_cases
  · exact ⟨_, exec_waitForKey_of_up hup⟩
  · exact ⟨_, exec_waitForKey_of_lowest hdown hlow⟩

/-- An execute phase completes unless rule R231 lists a fault for it: for the instructions that the rule lists, the two
sides of the bound of decisions D7, D9 and D10. -/
theorem exec_completes_or_faultsWhere (s : State) (i : Instr) : (∃ t, exec i s = .next t) ∨ ∃ k, FaultsWhere s k i := by
  cases i with
  | ret =>
    obtain hempty | hpos := Nat.eq_zero_or_pos s.sp.val
    · exact .inr ⟨_, rfl, hempty⟩
    · exact .inl ⟨_, exec_ret_of_pos hpos⟩
  | call nnn =>
    obtain hroom | hfull := Nat.lt_succ_iff_lt_or_eq.1 s.sp.isLt
    · exact .inl ⟨_, exec_call_of_lt nnn hroom⟩
    · exact .inr ⟨_, rfl, hfull⟩
  | drawSprite x y n =>
    by_cases hfit : n.toNat = 0 ∨ indexAddr s + n.toNat ≤ 0x1000
    · exact .inl (exec_drawSprite_of_le hfit)
    · obtain ⟨hn, hout⟩ := not_or.1 hfit
      exact .inr ⟨_, rfl, Nat.pos_of_ne_zero hn, Nat.le_sub_one_of_lt (Nat.lt_of_not_le hout)⟩
  | storeBcd x =>
    obtain hin | hout := Nat.lt_or_ge (indexAddr s + 2) 0x1000
    · exact .inl (raising_writeBlock_of_le hin)
    · exact .inr ⟨_, rfl, hout⟩
  | storeRegisters x =>
    obtain hin | hout := Nat.lt_or_ge (indexAddr s + x.toNat) 0x1000
    · exact .inl (raising_writeBlock_of_le (s.regsTo_length x ▸ hin))
    · exact .inr ⟨_, rfl, hout⟩
  | loadRegisters x =>
    obtain hin | hout := Nat.lt_or_ge (indexAddr s + x.toNat) 0x1000
    · exact .inl (execLoadRegisters_of_le s x (Nat.le_of_lt_succ hin))
    · exact .inr ⟨_, rfl, hout⟩
  | skipIfKeyDown x =>
    obtain hkey | hout := Nat.lt_or_ge (s.reg x).toNat 16
    · exact .inl (raising_keySkip_of_lt s.keyDown hkey)
    · exact .inr ⟨_, rfl, hout⟩
  | skipIfKeyUp x =>
    obtain hkey | hout := Nat.lt_or_ge (s.reg x).toNat 16
    · exact .inl (raising_keySkip_of_lt (fun k => !s.keyDown k) hkey)
    · exact .inr ⟨_, rfl, hout⟩
  | waitForKey x => exact .inl (exec_waitForKey_completes s x)
  | _ => exact .inl ⟨_, rfl⟩

/-- An execute phase that faults does so where rule R231 says, with that kind: the rule lists a fault for the instruction,
and that fault is the one raised (`exec_fault_of_faultsWhere`). -/
theorem faultsWhere_of_exec_fault {i : Instr} {k : Fault} (h : exec i s = .fault k) : FaultsWhere s k i := by
  obtain ⟨t, ht⟩ | ⟨k', hk'⟩ := exec_completes_or_faultsWhere s i
  · cases h.symm.trans ht
  · obtain rfl := Host.Outcome.fault.inj (h.symm.trans (exec_fault_of_faultsWhere hk'))
    exact hk'

theorem exec_ne_refused (s : State) (i : Instr) (r : Refusal) : exec i s ≠ .refused r := by
  intro h
  obtain ⟨t, ht⟩ | ⟨k, hk⟩ := exec_completes_or_faultsWhere s i
  · cases h.symm.trans ht
  · cases h.symm.trans (exec_fault_of_faultsWhere hk)

end

end Sys2Proof.Machine

/-! PROOFS. The statement about the faults (60_exceptions.md), settled. -/

namespace Sys2Proof.Proofs

open Sys2Proof.Machine

/-- Settles O51, from the two outcomes of an execute phase. -/
theorem instructionsFaultExactlyWhereListed : Obligations.InstructionsFaultExactlyWhereListed := fun s i =>
  ⟨fun _ => ⟨faultsWhere_of_exec_fault, exec_fault_of_faultsWhere⟩, exec_ne_refused s i⟩

end Sys2Proof.Proofs

/-! PROOFS. Whether Reset has been issued (rule R264, log 20): a step before it is refused, Reset makes it true, and no
other transaction touches it. -/

namespace Sys2Proof.Machine

section
variable {s t : State}

theorem step_of_not_reset (hf : s.fault = none) (hr : s.wasReset = false) : step s = .refused .stepBeforeReset := by
  simp [step, stepWith, stepBar, hf, hr]

/-- Neither the fault entry nor an execute phase with its tick touches `wasReset` (rule R97, log 20). -/
theorem step_wasReset (h : step s = .next t) : t.wasReset = s.wasReset := by
  obtain ⟨-, -, ⟨k, -, rfl⟩ | ⟨w, -, ⟨k, -, rfl⟩ | ⟨u, hu, rfl⟩⟩⟩ := step_next_cases h
  · rfl
  · rfl
  · have hexec : u.wasReset = s.advancePc.wasReset :=
      executeWord_same (p := .wasReset) hu fun _ _ => not_execWrites_wasReset
    rw [timerTick_wasReset, hexec, State.advancePc_wasReset]

theorem loadProgram_wasReset {b : List Byte} (h : loadProgram b s = .next t) : t.wasReset = s.wasReset := by
  obtain ⟨-, e⟩ | ⟨hb, e⟩ := loadProgram_cases b s
  · cases e.symm.trans h
  · obtain rfl := Host.Outcome.next.inj (e.symm.trans h)
    obtain ⟨-, hframe, -⟩ := s.placeBytes_program hb
    exact hframe .wasReset (by simp)

theorem keyEvent_wasReset {k : Nat} {down : Bool} (h : keyEvent k down s = .next t) : t.wasReset = s.wasReset := by
  obtain ⟨-, e⟩ | ⟨hk, e⟩ := keyEvent_cases k down s
  · cases e.symm.trans h
  · obtain rfl := Host.Outcome.next.inj (e.symm.trans h)
    exact s.setKey_wasReset ⟨k, hk⟩ down

theorem restore_wasReset {u : State} (h : restore u s = .next t) : t.wasReset = s.wasReset := by
  obtain ⟨-, e⟩ | ⟨-, e⟩ := restore_cases u s
  · cases e.symm.trans h
  · obtain rfl := Host.Outcome.next.inj (e.symm.trans h)
    rfl

/-- No transaction but Reset touches `wasReset` (rule R264, log 20). -/
theorem transact_wasReset {x : Transaction} (hx : x ≠ .reset) (h : transact x s = .next t) :
    t.wasReset = s.wasReset := by
  cases x with
  | reset => exact absurd rfl hx
  | loadProgram b => exact loadProgram_wasReset h
  | step => exact step_wasReset h
  | clearRedraw =>
    obtain rfl := Host.Outcome.next.inj h
    exact s.setRedraw_wasReset false
  | keyDown | keyUp => exact keyEvent_wasReset h
  | restore u => exact restore_wasReset h

/-- After Reset the machine has been reset; after any other transaction, if it had been before (rule R264, log 20). -/
theorem transact_wasReset_ite {x : Transaction} (h : transact x s = .next t) :
    if x = .reset then t.wasReset = true else t.wasReset = s.wasReset := by
  split_ifs with hx
  · subst hx
    obtain rfl := Host.Outcome.next.inj h
    rfl
  · exact transact_wasReset hx h

end

/-- Reset sets pc to 0x200 (rules R36, R263). -/
@[simp] theorem hostReset_pc (s : State) : (hostReset s).pc = 0x200#16 := rfl

/-- Reset does not touch the keypad (rule R261). -/
@[simp] theorem hostReset_keyDown (s : State) (k : Fin 16) : (hostReset s).keyDown k = s.keyDown k := rfl

end Sys2Proof.Machine

/-! PROOFS. The statements about Reset and the machine before it (70_reset_and_hazards.md), settled. -/

namespace Sys2Proof.Proofs

open Sys2Proof.Machine

/-- Settles O60: a transaction is Reset, which makes `wasReset` true, or one that leaves it as it was. -/
theorem noStepBeforeTheFirstReset : Obligations.NoStepBeforeTheFirstReset := by
  refine ⟨rfl, rfl, fun s hf hr => step_of_not_reset hf hr, fun s t x hr h => ?before, fun s => ⟨_, rfl, rfl⟩,
    fun s t x hr h => ?after⟩
  case before => simpa only [hr] using transact_wasReset_ite h
  case after => simpa only [hr, ite_self] using transact_wasReset_ite h

/-- Settles O1: 0x200 and 0x201 are inside memory, so the fetch there gives their word. -/
theorem resetEntersAt0x200 : Obligations.ResetEntersAt0x200 := by
  refine ⟨rfl, fun s => ⟨hostReset_pc s, ?_⟩⟩
  have hpc : (hostReset s).pc.toNat = 0x200 := congrArg BitVec.toNat (hostReset_pc s)
  rw [fetch_of_le (by omega), hpc]

/-- Settles O4: Reset takes only the keypad and the counter of free values from the state it is issued in, and keeps
both. -/
theorem resetKeepsKeysAndIsIdempotent : Obligations.ResetKeepsKeysAndIsIdempotent := fun s =>
  ⟨hostReset_keyDown s, rfl⟩

end Sys2Proof.Proofs
